-- ==== Sys2Proof/Word.lean ====
section
/-! DEFINITION. The word types of the VFE: bytes of a buffer, host-port words, sample words
(00_scope.md R9). -/

namespace Sys2Proof

/-- One buffer cell's byte (00_scope.md R9, R12 `u8`). -/
abbrev Byte := BitVec 8

/-- One host-port word, one register, one command word (00_scope.md R9, R12 `u32`). -/
abbrev Word := BitVec 32

/-- One sample: an IEEE 754 binary64 word (00_scope.md R9; 30_encoding.md R110). -/
abbrev Binary64 := BitVec 64

end Sys2Proof
end

