-- ==== Sys2Proof/Config.lean ====
section
/-! DEFINITION. What is fixed for one machine, and the free values the spec leaves open. -/

namespace Sys2Proof.Config

/-- The value of N_MAX "chosen for this hardware when no other is given" (00_scope.md R8). -/
def defaultNMax : Nat := 65536

/-- The legal values of the parameter N_MAX: a multiple of 8 from 8 to 2^21 (00_scope.md R8). -/
def legalNMax (n : Nat) : Bool := n % 8 == 0 && decide (8 ≤ n) && decide (n ≤ 2 ^ 21)

/-- Header length in bytes (00_scope.md R9). -/
def headerLength : Nat := 32

/-- The draws of 10_state.md R49: a free 8-bit value under no law, one for each index.
It has no body that a proof could see (log entry 3): every claim holds whatever these bytes are. -/
opaque freeByte : Nat → Byte

end Sys2Proof.Config
end

