-- ==== Sys2Proof/Syntax.lean ====
section
/-! DEFINITION. The commands of the VFE, one constructor per row of spec/opcode_table.json. -/

namespace Sys2Proof

/-- A command (30_encoding.md R91). No command carries an operand (R103); the word of an illegal
command is kept so that its encoding is not lost. -/
inductive Instr where
  /-- NOP, 45_control.md R230. -/
  | nop
  /-- CFG_COMMIT, 40_config.md R130. -/
  | cfgCommit
  /-- ENC_HDR, 43_header.md R190. -/
  | encHdr
  /-- QUANTIZE, 41_quantizer.md R150. -/
  | quantize
  /-- PACK, 42_bitpacker.md R170. -/
  | pack
  /-- ASSEMBLE, 44_assembler.md R220. -/
  | assemble
  /-- ENC_FRAME, 45_control.md R231. -/
  | encFrame
  /-- SOFT_RESET, 45_control.md R232. -/
  | softReset
  /-- ILLEGAL, 45_control.md R233: every word that is no command. -/
  | illegal (w : Word)
  deriving DecidableEq, Repr

end Sys2Proof
end

