-- ==== Sys2Proof/Machine/State.lean ====
section
/-! DEFINITION. The state of the VFE (10_state.md R20 to R51) as plain data, and the state right
after reset (70_reset_and_hazards.md R280). -/

namespace Sys2Proof.Machine

/-- The cells of one buffer: (offset, byte) pairs, offsets strictly rising. An offset that is not
listed is a cell that reads `none`, "never written since hard reset" (10_state.md R20, R49). -/
abbrev Memory := List Host.Cell

/-- The five buffers (10_state.md R44 to R48). -/
inductive BufName where
  | hdr | samp | code | pay | frame
  deriving DecidableEq, Repr

/-- The response of the host port (20_memory.md R62). -/
inductive Resp where
  | okay | error
  deriving DecidableEq, Repr

/-- What the host keeps of one access that has returned: its address, and what it got back
(20_memory.md R62, R63). -/
inductive Reply where
  | read (a : Word) (resp : Resp) (data : Word)
  | write (a : Word) (resp : Resp)
  deriving DecidableEq, Repr

/-- One operation of the host agent: a port read, a port write, or the `wait` loop, the only
control flow a host program has (30_encoding.md R120, R121). -/
inductive HostOp where
  | rd (a : Word)
  | wr (a v : Word)
  | wait
  deriving DecidableEq, Repr

/-- Who takes the next step (20_memory.md R75), the platform's reset input among them
(70_reset_and_hazards.md R280). -/
inductive Turn where
  | host | engine | rst
  deriving DecidableEq, Repr

/-- The causes of a command failure, the rows of 60_exceptions.md R251. -/
inductive CmdError where
  | cfgBps | cfgChannels | cfgStation | cfgFrameLength | cfgSpf | cfgVersion | cfgThread
  | cfgPolicy | cfgLayout | illegalCmd | notConfigured | nonfiniteSample
  deriving DecidableEq, Repr

/-- The registers of 10_state.md R21. A field is as wide as the bits the register stores; its
reserved bits read 0 and are not stored (R21). CMD holds no state (R23), and STATUS.BUSY is a
function of `pending` (R24, R50). -/
structure Regs where
  /-- STATUS[0], R24. -/
  cfgValid : Bool
  /-- STATUS[2], R24. -/
  done : Bool
  /-- STATUS[3], R24. -/
  err : Bool
  /-- STATUS[4], R24. -/
  errMulti : Bool
  /-- ERR_CODE, R25. -/
  errCode : BitVec 8
  /-- CFG_ERR, R26. -/
  cfgErr : BitVec 9
  /-- IRQ_EN, R27: [0] DONE_IE, [1] ERR_IE. -/
  irqEn : BitVec 2
  /-- N_MAX_REG, R28: the parameter N_MAX, a constant. -/
  nMaxReg : Word
  /-- CFG_SPF, R29. -/
  cfgSpf : Word
  /-- CFG_BPS, R30. -/
  cfgBps : BitVec 8
  /-- CFG_CHANNELS, R31. -/
  cfgChannels : Word
  /-- CFG_THREAD_ID, R32. -/
  cfgThreadId : BitVec 16
  /-- CFG_STATION_ID, R33. -/
  cfgStationId : BitVec 16
  /-- CFG_VDIF_VERSION, R34. -/
  cfgVdifVersion : BitVec 8
  /-- CFG_MODE, R35: [0] QPOLICY, [1] SECMODE, [3:2] LAYOUT. -/
  cfgMode : BitVec 4
  /-- PAYLOAD_BYTES, R36. -/
  payloadBytes : Word
  /-- FRAME_LENGTH_UNITS, R37. -/
  frameLengthUnits : Word
  /-- FRAME_BYTES, R38. -/
  frameBytes : Word
  /-- LOG2_CHANNELS, R39. -/
  log2Channels : BitVec 5
  /-- EPOCH_SECONDS, R40. -/
  epochSeconds : Word
  /-- FRAME_NUMBER, R41. -/
  frameNumber : Word
  deriving DecidableEq, Repr

/-- The state: the tuple of 10_state.md R20, and four fields of the model's own. -/
structure State where
  regs : Regs
  /-- The command word accepted and not yet completed, R50. -/
  pending : Option Word
  /-- HDR, R44. -/
  hdr : Memory
  /-- SAMP, R45. -/
  samp : Memory
  /-- CODE, R46. -/
  code : Memory
  /-- PAY, R47. -/
  pay : Memory
  /-- FRAME, R48. -/
  frame : Memory
  /-- The model's own: the index of the next draw (R49; log entry 3). -/
  draws : Nat
  /-- The model's own: who steps next (20_memory.md R75; log entry 1). -/
  turns : List Turn
  /-- The model's own: the host's remaining operations (R22; log entry 2). -/
  program : List HostOp
  /-- The model's own: the port's replies to the host, newest first (log entry 2). -/
  replies : List Reply
  deriving DecidableEq, Repr

/-- Reasons the machine stops. There are none: "the VFE has no stuck state and … no hang"
(60_exceptions.md R271). A bus error is a reply and a command failure is a record in STATUS
(R250), and the machine goes on after both (log entry 14). -/
inductive Fault
  deriving DecidableEq, Repr

/-- Reasons the model refuses an instruction. -/
inductive Refusal where
  /-- No meaning yet: raised by a dispatch arm that has none. No arm raises it in this model.
  Safe: the model would stop where the hardware goes on. -/
  | notModelled (mnemonic : String)
  deriving DecidableEq, Repr

/-- The reset values of 70_reset_and_hazards.md R280, for a machine built with the given N_MAX. -/
def Regs.reset (nMax : Word) : Regs where
  cfgValid := false
  done := false
  err := false
  errMulti := false
  errCode := 0x00
  cfgErr := 0
  irqEn := 0
  nMaxReg := nMax
  cfgSpf := 20000
  cfgBps := 2
  cfgChannels := 1
  cfgThreadId := 0
  cfgStationId := 0x4141
  cfgVdifVersion := 0
  cfgMode := 0
  payloadBytes := 0
  frameLengthUnits := 0
  frameBytes := 0
  log2Channels := 0
  epochSeconds := 0
  frameNumber := 0

/-- The state right after reset of a machine built with the given N_MAX: R280's values, every
buffer cell `none`, nothing pending; and the model's own fields empty (log entries 1 to 3). -/
def State.resetWith (nMax : Word) : State where
  regs := Regs.reset nMax
  pending := none
  hdr := []
  samp := []
  code := []
  pay := []
  frame := []
  draws := 0
  turns := []
  program := []
  replies := []

/-- The state right after reset, with the N_MAX of 00_scope.md R8 (log entry 4). -/
def State.reset : State := State.resetWith (BitVec.ofNat 32 Config.defaultNMax)

end Sys2Proof.Machine
end

