-- ==== Sys2Proof/Machine/Ops.lean ====
section
/-! DEFINITION. The operations every command and every host access is built of: buffer cells and
draws, byte order, completion, the failure path and its acknowledgement, the configuration gate
and hard reset. -/

namespace Sys2Proof.Machine

/-- What a command or a step answers. -/
abbrev Result := Host.Outcome State Fault Refusal

/-! ### Buffer cells -/

/-- The cell at an offset: `none` where nothing was written since hard reset (10_state.md R49). -/
def Memory.read (m : Memory) (o : Nat) : Option Byte :=
  match m with
  | [] => none
  | c :: m => if c.1 = o then some c.2 else Memory.read m o

/-- The cells that hold the given bytes, from offset `o` upwards. -/
def cellsFrom (o : Nat) (bs : List Byte) : Memory :=
  match bs with
  | [] => []
  | b :: bs => (o, b) :: cellsFrom (o + 1) bs

/-- Write consecutive bytes from offset `o` upwards; every other cell is kept. -/
def Memory.writeRange (m : Memory) (o : Nat) (bs : List Byte) : Memory :=
  m.filter (fun c => decide (c.1 < o)) ++
    (cellsFrom o bs ++ m.filter (fun c => decide (o + bs.length ≤ c.1)))

/-- The canonical form: offsets strictly rising. An unlisted offset has no value, so no entry can
repeat what an unlisted offset reads as. -/
abbrev Memory.wf (m : Memory) : Prop := m.Pairwise (fun c d => c.1 < d.1)

/-- Every listed offset lies inside a buffer of the given size. -/
abbrev Memory.within (m : Memory) (size : Nat) : Prop := ∀ c ∈ m, c.1 < size

/-! ### The five buffers -/

/-- The parameter N_MAX as N_MAX_REG holds it (00_scope.md R8; 10_state.md R28). -/
def State.nMax (s : State) : Nat := s.regs.nMaxReg.toNat

/-- The cells of a buffer (10_state.md R44 to R48). -/
def State.buf (s : State) : BufName → Memory
  | .hdr => s.hdr
  | .samp => s.samp
  | .code => s.code
  | .pay => s.pay
  | .frame => s.frame

/-- Replace the cells of a buffer. -/
def State.setBuf (s : State) (b : BufName) (m : Memory) : State :=
  match b with
  | .hdr => { s with hdr := m }
  | .samp => { s with samp := m }
  | .code => { s with code := m }
  | .pay => { s with pay := m }
  | .frame => { s with frame := m }

/-- The size of a buffer in bytes (10_state.md R44 to R48; 20_memory.md R61). -/
def BufName.size (nMax : Nat) : BufName → Nat
  | .hdr => 32
  | .samp => 8 * nMax
  | .code => nMax
  | .pay => nMax
  | .frame => 32 + nMax

/-- Read one cell. A `none` cell reads as a draw (10_state.md R49): `d` is the place of this read
among the reads of one command or access, so that no two reads of a run take the same draw
(log entries 3 and 8). -/
def State.readCell (s : State) (b : BufName) (o d : Nat) : Byte :=
  ((s.buf b).read o).getD (Config.freeByte (s.draws + d))

/-- Read `n` consecutive cells from offset `o`, the first at place `d`. -/
def State.readBytes (s : State) (b : BufName) (o n d : Nat) : List Byte :=
  (List.range n).map fun i => s.readCell b (o + i) (d + i)

/-- Pass over the `n` draw places a command or access has used. -/
def State.drew (s : State) (n : Nat) : State := { s with draws := s.draws + n }

/-- Write consecutive bytes of a buffer. -/
def State.writeBytes (s : State) (b : BufName) (o : Nat) (bs : List Byte) : State :=
  s.setBuf b ((s.buf b).writeRange o bs)

/-! ### Byte order -/

/-- Bits 8j+7 to 8j of a word (20_memory.md R68; 30_encoding.md R101). -/
def wordByte (v : Word) (j : Nat) : Byte := v.extractLsb' (8 * j) 8

/-- The four bytes of a word, least significant first (20_memory.md R68; 30_encoding.md R101). -/
def wordBytes (v : Word) : List Byte := [wordByte v 0, wordByte v 1, wordByte v 2, wordByte v 3]

/-- `B[o] | B[o+1] << 8 | B[o+2] << 16 | B[o+3] << 24` (20_memory.md R68). -/
def wordOfBytes (b0 b1 b2 b3 : Byte) : Word :=
  b0.setWidth 32 ||| b1.setWidth 32 <<< 8 ||| b2.setWidth 32 <<< 16 ||| b3.setWidth 32 <<< 24

/-- `Σ B[j] << 8j`, the first byte least significant (30_encoding.md R110). -/
def sumOfBytes : List Byte → Nat
  | [] => 0
  | b :: bs => b.toNat + 256 * sumOfBytes bs

/-! ### Completion, failure, acknowledgement -/

/-- Replace the registers. -/
def State.setRegs (s : State) (r : Regs) : State := { s with regs := r }

/-- Successful completion (60_exceptions.md R255): the error fields are unchanged. -/
def State.complete (s : State) : State :=
  { s with pending := none, regs := { s.regs with done := true } }

/-- The code each failure records (60_exceptions.md R251). -/
def CmdError.code : CmdError → Byte
  | .cfgBps => 0x01
  | .cfgChannels => 0x02
  | .cfgStation => 0x03
  | .cfgFrameLength => 0x04
  | .cfgSpf => 0x05
  | .cfgVersion => 0x06
  | .cfgThread => 0x07
  | .cfgPolicy => 0x08
  | .cfgLayout => 0x09
  | .illegalCmd => 0x10
  | .notConfigured => 0x11
  | .nonfiniteSample => 0x12

/-- What the failure path records (60_exceptions.md R256, R257): the first failure's code, or
ERR_MULTI when an earlier failure is not yet cleared. -/
def Regs.recordError (r : Regs) (e : CmdError) : Regs :=
  if r.err then { r with errMulti := true } else { r with err := true, errCode := e.code }

/-- The failure path, the VFE's only form of taking an exception (60_exceptions.md R256, R261):
the error is recorded, and the command ends with DONE set. -/
def State.fail (s : State) (e : CmdError) : State :=
  { s with pending := none, regs := { s.regs.recordError e with done := true } }

/-- The acknowledgement of an error, the VFE's only form of returning from one
(60_exceptions.md R258). -/
def Regs.clearError (r : Regs) : Regs :=
  { r with err := false, errMulti := false, errCode := 0x00 }

/-- The configuration gate (45_control.md R234): an encode command raises NOT_CONFIGURED as its
first action when CFG_VALID = 0, and writes nothing. -/
def whenConfigured (s : State) (body : State → Result) : Result :=
  if s.regs.cfgValid then body s else .next (s.fail .notConfigured)

/-! ### Reset -/

/-- Hard reset (70_reset_and_hazards.md R280), at any time, a pending command dropped (R281).
N_MAX is a constant; the host's own record is not the VFE's (log entry 5). -/
def State.hardReset (s : State) : State :=
  { s with
    regs := Regs.reset s.regs.nMaxReg
    pending := none
    hdr := []
    samp := []
    code := []
    pay := []
    frame := [] }

end Sys2Proof.Machine
end

