-- ==== Sys2Proof/Machine/Operands.lean ====
section
/-! DEFINITION. What the commands read: the fields of CFG_MODE, the numbers in the configuration
registers, and the samples of SAMP as exact rationals (30_encoding.md R103, R110, R111). -/

namespace Sys2Proof.Machine

/-! ### Configuration operands -/

/-- CFG_MODE.QPOLICY (10_state.md R35): false is clip-floor, true is percentile-threshold. -/
def Regs.qPolicy (r : Regs) : Bool := r.cfgMode.getLsbD 0

/-- CFG_MODE.SECMODE (10_state.md R35): false is the raw second, true the offset. -/
def Regs.secMode (r : Regs) : Bool := r.cfgMode.getLsbD 1

/-- CFG_MODE.LAYOUT (10_state.md R35). -/
def Regs.layout (r : Regs) : BitVec 2 := r.cfgMode.extractLsb' 2 2

/-- `spf`, the number of samples and of codes of a frame (30_encoding.md R103). -/
def Regs.spf (r : Regs) : Nat := r.cfgSpf.toNat

/-- `b`, the bits of a sample. -/
def Regs.bps (r : Regs) : Nat := r.cfgBps.toNat

/-- `P`, the payload's length in bytes, as PAYLOAD_BYTES holds it (30_encoding.md R103). -/
def Regs.payloadLength (r : Regs) : Nat := r.payloadBytes.toNat

/-! ### Samples -/

/-- Sample i, the 64-bit word of SAMP bytes 8i to 8i + 7 (30_encoding.md R110). -/
def State.sampleWord (s : State) (i : Nat) : Binary64 :=
  BitVec.ofNat 64 (sumOfBytes (s.readBytes .samp (8 * i) 8 (8 * i)))

/-- Samples 0 to spf − 1 (41_quantizer.md R150). -/
def State.samples (s : State) : List Binary64 := (List.range s.regs.spf).map s.sampleWord

/-- Bits 62:52 of a binary64 word (30_encoding.md R111). -/
def expField (x : Binary64) : Nat := (x.extractLsb' 52 11).toNat

/-- Bits 51:0 of a binary64 word (30_encoding.md R111). -/
def fracField (x : Binary64) : Nat := (x.extractLsb' 0 52).toNat

/-- ±∞ and NaN are the words whose exponent is 0x7FF (30_encoding.md R111). -/
def isFinite64 (x : Binary64) : Bool := expField x != 0x7FF

/-- The absolute value of a finite word: `f × 2^(−1074)` when the exponent is 0, otherwise
`(2^52 + f) × 2^(e − 1075)` (30_encoding.md R111). -/
def magnitude64 (x : Binary64) : Rat :=
  if expField x = 0 then mkRat (fracField x) (2 ^ 1074)
  else if 1075 ≤ expField x then (((2 ^ 52 + fracField x) * 2 ^ (expField x - 1075) : Nat) : Rat)
  else mkRat (2 ^ 52 + fracField x) (2 ^ (1075 - expField x))

/-- The exact rational a finite binary64 word stands for (30_encoding.md R111). -/
def value64 (x : Binary64) : Rat := if x.getLsbD 63 then -magnitude64 x else magnitude64 x

end Sys2Proof.Machine
end

