-- ==== Sys2Proof/Machine/Commit.lean ====
section
/-! DEFINITION. Configuration commit and derived frame sizes (40_config.md) and the meaning of
CFG_COMMIT. -/

namespace Sys2Proof.Machine

/-- `ceil(spf * b / 8)` on the raw register values (40_config.md R131). -/
def Regs.payloadSize (r : Regs) : Nat := (r.spf * r.bps + 7) / 8

/-- `ch = 2^k` for some k a 32-bit register can hold (40_config.md R133, R135). -/
def isPowerOfTwo (ch : Word) : Bool := (List.range 32).any fun k => ch.toNat == 2 ^ k

/-- Which of the nine checks fail, check 1 first, each on the raw register values
(40_config.md R133). -/
def Regs.checkFailures (r : Regs) : List Bool :=
  [ decide (r.bps < 1 ∨ 8 < r.bps),
    !isPowerOfTwo r.cfgChannels,
    decide (0x7F < (r.cfgStationId.extractLsb' 8 8).toNat ∨
      0x7F < (r.cfgStationId.extractLsb' 0 8).toNat),
    decide ((32 + r.payloadSize) % 8 ≠ 0),
    decide (r.spf = 0 ∨ r.nMaxReg.toNat < r.spf),
    decide (7 < r.cfgVdifVersion.toNat),
    decide (1023 < r.cfgThreadId.toNat),
    decide (r.qPolicy = true ∧ r.bps ≠ 2),
    decide (r.layout ≠ 0) ]

/-- Bits as a number, the first least significant. -/
def sumOfBits : List Bool → Nat
  | [] => 0
  | f :: fs => f.toNat + 2 * sumOfBits fs

/-- The mask: bit i − 1 is set when check i fails (40_config.md R133; 10_state.md R26). -/
def Regs.checkMask (r : Regs) : BitVec 9 := BitVec.ofNat 9 (sumOfBits r.checkFailures)

/-- The lowest-numbered check whose bit is set (40_config.md R141). -/
def primaryError (mask : BitVec 9) : CmdError :=
  if mask.getLsbD 0 then .cfgBps
  else if mask.getLsbD 1 then .cfgChannels
  else if mask.getLsbD 2 then .cfgStation
  else if mask.getLsbD 3 then .cfgFrameLength
  else if mask.getLsbD 4 then .cfgSpf
  else if mask.getLsbD 5 then .cfgVersion
  else if mask.getLsbD 6 then .cfgThread
  else if mask.getLsbD 7 then .cfgPolicy
  else .cfgLayout

/-- What a commit writes when every check passes (40_config.md R130). -/
def Regs.acceptConfig (r : Regs) : Regs :=
  { r with
    cfgErr := r.checkMask
    payloadBytes := BitVec.ofNat 32 r.payloadSize
    frameBytes := BitVec.ofNat 32 (32 + r.payloadSize)
    frameLengthUnits := BitVec.ofNat 32 ((32 + r.payloadSize) / 8)
    log2Channels := BitVec.ofNat 5 r.cfgChannels.toNat.log2
    cfgValid := true }

/-- What a commit writes before it raises, when a check fails (40_config.md R130). -/
def Regs.rejectConfig (r : Regs) : Regs :=
  { r with
    cfgErr := r.checkMask
    payloadBytes := 0
    frameBytes := 0
    frameLengthUnits := 0
    log2Channels := 0
    cfgValid := false }

/-- CFG_COMMIT (40_config.md R130). -/
def execCfgCommit (s : State) : Result :=
  if s.regs.checkMask = 0 then
    .next (s.setRegs s.regs.acceptConfig).complete
  else
    .next ((s.setRegs s.regs.rejectConfig).fail (primaryError s.regs.checkMask))

end Sys2Proof.Machine
end

