-- ==== Sys2Proof/Machine/Assembler.lean ====
section
/-! DEFINITION. The frame assembler (44_assembler.md) and the meaning of ASSEMBLE. -/

namespace Sys2Proof.Machine

/-- Header and payload as HDR and PAY hold them; a cell never written is copied as a draw
(44_assembler.md R220). -/
def State.assembledBytes (s : State) : List Byte :=
  s.readBytes .hdr 0 Config.headerLength 0 ++
    s.readBytes .pay 0 s.regs.payloadLength Config.headerLength

/-- FRAME[0 .. 31 + P] receives them (44_assembler.md R220, R221); the 32 + P cells read take as
many draw places (log entry 8). -/
def State.writeFrame (s : State) : State :=
  (s.drew (Config.headerLength + s.regs.payloadLength)).writeBytes .frame 0 s.assembledBytes

/-- ASSEMBLE (44_assembler.md R220). -/
def execAssemble (s : State) : Result :=
  whenConfigured s fun s => .next s.writeFrame.complete

/-- The datagram at the transport boundary: FRAME[0 .. FRAME_BYTES − 1], byte i of the wire
(44_assembler.md R222; 20_memory.md R70). A cell never written shows as `none`. -/
def State.datagram (s : State) : List (Option Byte) :=
  (List.range s.regs.frameBytes.toNat).map s.frame.read

end Sys2Proof.Machine
end

