-- ==== Sys2Proof/Machine/Calendar.lean ====
section
/-! DEFINITION. The calendar of 43_header.md R191 to R193, over mathematical integers with floor
division (00_scope.md R12): POSIX seconds, proleptic Gregorian dates. -/

namespace Sys2Proof.Machine

/-- A calendar date. -/
structure Civil where
  year : Int
  month : Int
  day : Int
  deriving DecidableEq, Repr

/-- The date of a day counted from 1970-01-01 (43_header.md R191). -/
def civilFromDays (days : Int) : Civil :=
  let z := days + 719468
  let era := z / 146097
  let doe := z - era * 146097
  let yoe := (doe - doe / 1460 + doe / 36524 - doe / 146096) / 365
  let y := yoe + era * 400
  let doy := doe - (365 * yoe + yoe / 4 - yoe / 100)
  let mp := (5 * doy + 2) / 153
  let d := doy - (153 * mp + 2) / 5 + 1
  let m := if mp < 10 then mp + 3 else mp - 9
  { year := y + (if m ≤ 2 then 1 else 0), month := m, day := d }

/-- The day count of a date, the inverse of `civilFromDays` (43_header.md R193). -/
def daysFromCivil (c : Civil) : Int :=
  let y := c.year - (if c.month ≤ 2 then 1 else 0)
  let era := y / 400
  let yoe := y - era * 400
  let mp := (c.month + 9) % 12
  let doy := (153 * mp + 2) / 5 + c.day - 1
  let doe := yoe * 365 + yoe / 4 - yoe / 100 + doy
  era * 146097 + doe - 719468

/-- The unbounded half-year index of a Unix second (43_header.md R192). -/
def refEpochMath (s : Int) : Int :=
  let c := civilFromDays (s / 86400)
  (c.year - 2000) * 2 + (if c.month ≤ 6 then 0 else 1)

/-- The Unix second at which half-year k begins (43_header.md R193). -/
def halfYearStart (k : Int) : Int :=
  daysFromCivil { year := 2000 + k / 2, month := if k % 2 = 0 then 1 else 7, day := 1 } * 86400

end Sys2Proof.Machine
end

