-- ==== Sys2Proof/Machine/Header.lean ====
section
/-! DEFINITION. The VDIF header encoder (43_header.md; 30_encoding.md R95 to R102) and the meaning
of ENC_HDR. -/

namespace Sys2Proof.Machine

/-- The half-year index of EPOCH_SECONDS (43_header.md R192). -/
def Regs.refEpoch (r : Regs) : Int := refEpochMath (r.epochSeconds.toNat : Int)

/-- The seconds field: the raw second's low 30 bits (43_header.md R195), or the offset from the
start of the half-year (R196). -/
def Regs.secondsField (r : Regs) : Word :=
  if r.secMode then BitVec.ofInt 32 ((r.epochSeconds.toNat : Int) - halfYearStart r.refEpoch)
  else (r.epochSeconds.extractLsb' 0 30).setWidth 32

/-- Header word 0: invalid and legacy are 0 (43_header.md R197). -/
def Regs.headerWord0 (r : Regs) : Word := r.secondsField

/-- Header word 1: the index modulo 64 and the frame number's low 24 bits (43_header.md R194,
R198). -/
def Regs.headerWord1 (r : Regs) : Word :=
  BitVec.ofInt 32 (r.refEpoch % 64) <<< 26 ||| (r.frameNumber.extractLsb' 0 24).setWidth 32

/-- Header word 2: version, log2(channels), frame length (43_header.md R199). -/
def Regs.headerWord2 (r : Regs) : Word :=
  (r.cfgVdifVersion.extractLsb' 0 3).setWidth 32 <<< 29 ||| r.log2Channels.setWidth 32 <<< 24 |||
    (r.frameLengthUnits.extractLsb' 0 24).setWidth 32

/-- Header word 3: data type 0, bits per sample − 1, thread, station (43_header.md R200). -/
def Regs.headerWord3 (r : Regs) : Word :=
  (r.cfgBps.setWidth 32 - 1) <<< 26 ||| (r.cfgThreadId.extractLsb' 0 10).setWidth 32 <<< 16 |||
    r.cfgStationId.setWidth 32

/-- The eight header words; words 4 to 7 are 0 (43_header.md R190, R201). -/
def Regs.headerWords (r : Regs) : List Word :=
  [r.headerWord0, r.headerWord1, r.headerWord2, r.headerWord3, 0, 0, 0, 0]

/-- The 32 header bytes, each word least significant byte first (43_header.md R202). -/
def Regs.headerBytes (r : Regs) : List Byte := r.headerWords.flatMap wordBytes

/-- HDR[0 .. 31] receives the header (43_header.md R190, R202). -/
def State.writeHeader (s : State) : State := s.writeBytes .hdr 0 s.regs.headerBytes

/-- ENC_HDR (43_header.md R190). -/
def execEncHdr (s : State) : Result :=
  whenConfigured s fun s => .next s.writeHeader.complete

end Sys2Proof.Machine
end

