-- ==== Sys2Proof/Machine/Packer.lean ====
section
/-! DEFINITION. The bit packer (42_bitpacker.md) and the meaning of PACK. -/

namespace Sys2Proof.Machine

/-- The low b bits of a code, most significant first (42_bitpacker.md R170, R172, R175). -/
def codeBits (b : Nat) (c : Byte) : List Bool := (List.range b).map fun j => c.getLsbD (b - 1 - j)

/-- The bit stream of the codes, in order (42_bitpacker.md R172). -/
def codeStream (b : Nat) (codes : List Byte) : List Bool := codes.flatMap (codeBits b)

/-- The byte whose bit 7 − t is bit t of the list; missing bits are 0 (42_bitpacker.md R172,
R174). -/
def byteOfBits (bits : List Bool) : Byte :=
  BitVec.ofNat 8 ((List.range 8).foldl (fun acc t => 2 * acc + (bits.getD t false).toNat) 0)

/-- `n` bytes of a bit stream, each filled from bit 7 down (42_bitpacker.md R172). -/
def bytesOfStream (n : Nat) (bits : List Bool) : List Byte :=
  match n with
  | 0 => []
  | n + 1 => byteOfBits bits :: bytesOfStream n (bits.drop 8)

/-- `packCodes` of 42_bitpacker.md R170 on a list of codes: n bytes of their stream. -/
def packBytes (b n : Nat) (codes : List Byte) : List Byte := bytesOfStream n (codeStream b codes)

/-- Bit p of a payload, `out[p div 8][7 − p mod 8]` (42_bitpacker.md R176). -/
def payloadBit (out : List Byte) (p : Nat) : Bool := (out.getD (p / 8) 0#8).getLsbD (7 - p % 8)

/-- The inverse of 42_bitpacker.md R176, a property of the packer: the VFE has no unpack
command. -/
def unpackCodes (out : List Byte) (b n : Nat) : List Nat :=
  (List.range n).map fun i =>
    (List.range b).foldl (fun acc j => 2 * acc + (payloadBit out (i * b + j)).toNat) 0

/-- The payload of the codes that CODE holds (42_bitpacker.md R170). -/
def State.packCodes (s : State) : List Byte :=
  packBytes s.regs.bps s.regs.payloadLength (s.readBytes .code 0 s.regs.spf 0)

/-- PAY[0 .. P−1] receives the payload (42_bitpacker.md R170, R171); the N cells of CODE read
take N draw places (log entry 8). -/
def State.writePayload (s : State) : State :=
  (s.drew s.regs.spf).writeBytes .pay 0 s.packCodes

/-- PACK (42_bitpacker.md R170). -/
def execPack (s : State) : Result :=
  whenConfigured s fun s => .next s.writePayload.complete

end Sys2Proof.Machine
end

