-- ==== Sys2Proof/Machine/Quantizer.lean ====
section
/-! DEFINITION. The quantizer (41_quantizer.md): both policies in exact rational arithmetic, and
the meaning of QUANTIZE. -/

namespace Sys2Proof.Machine

/-- Clip-floor: `min(max(floor(v), 0), 2^b − 1)` (41_quantizer.md R152). -/
def clipFloor (v : Rat) (b : Nat) : Int := min (max v.floor 0) (2 ^ b - 1)

/-- Threshold j of the quartiles of an ascending list: linear interpolation between order
statistics at h = (N − 1)·j/4 (41_quantizer.md R153). -/
def quartile (y : List Rat) (j : Nat) : Rat :=
  let lo := (y.length - 1) * j / 4
  let f := mkRat (((y.length - 1) * j % 4 : Nat) : Int) 4
  if f = 0 then y.getD lo 0 else y.getD lo 0 + f * (y.getD (lo + 1) 0 - y.getD lo 0)

/-- The samples' values in ascending order, ties kept (41_quantizer.md R153). -/
def sortedValues (v : List Rat) : List Rat := v.insertionSort (· ≤ ·)

/-- The three thresholds of a frame (41_quantizer.md R153). -/
def percentileThresholds (v : List Rat) : List Rat :=
  let y := sortedValues v
  [quartile y 1, quartile y 2, quartile y 3]

/-- The code of each sample: how many thresholds lie strictly below it (41_quantizer.md R154). -/
def percentileCodes (v : List Rat) : List Nat :=
  let ts := percentileThresholds v
  v.map fun x => ts.countP (fun t => decide (t < x))

/-- The codes of a frame under the configured policy (41_quantizer.md R150): a function of the
values, b and QPOLICY alone (R155). -/
def frameCodes (qPolicy : Bool) (b : Nat) (v : List Rat) : List Byte :=
  if qPolicy then (percentileCodes v).map (BitVec.ofNat 8)
  else v.map fun x => BitVec.ofInt 8 (clipFloor x b)

/-- `quantizeFrame` of 41_quantizer.md R150: `none` stands for NONFINITE_SAMPLE (R151), raised
when any of the N samples is not finite. -/
def State.quantizeFrame (s : State) : Option (List Byte) :=
  if s.samples.all isFinite64 then
    some (frameCodes s.regs.qPolicy s.regs.bps (s.samples.map value64))
  else none

/-- The draw places that reading the samples takes (log entry 8). -/
def State.drewSamples (s : State) : State := s.drew (8 * s.regs.spf)

/-- CODE[0 .. N−1] receives the codes (41_quantizer.md R150, R156). -/
def State.writeCodes (s : State) (codes : List Byte) : State :=
  s.drewSamples.writeBytes .code 0 codes

/-- QUANTIZE (41_quantizer.md R150). -/
def execQuantize (s : State) : Result :=
  whenConfigured s fun s =>
    match s.quantizeFrame with
    | none => .next (s.drewSamples.fail .nonfiniteSample)
    | some codes => .next (s.writeCodes codes).complete

end Sys2Proof.Machine
end

