-- ==== Sys2Proof/Machine/Control.lean ====
section
/-! DEFINITION. The control commands (45_control.md): the meanings of NOP, ENC_FRAME, SOFT_RESET
and ILLEGAL. -/

namespace Sys2Proof.Machine

/-- NOP (45_control.md R230). -/
def execNop (s : State) : Result := .next s.complete

/-- ENC_FRAME (45_control.md R231): every check comes before the first write, then the four parts
in order, each reading what the part before it wrote. -/
def execEncFrame (s : State) : Result :=
  whenConfigured s fun s =>
    match s.quantizeFrame with
    | none => .next (s.drewSamples.fail .nonfiniteSample)
    | some codes => .next (s.writeCodes codes).writePayload.writeHeader.writeFrame.complete

/-- SOFT_RESET (45_control.md R232): every register but CMD and N_MAX_REG goes to its reset value,
every buffer cell is kept, then the command completes. -/
def execSoftReset (s : State) : Result :=
  .next (s.setRegs (Regs.reset s.regs.nMaxReg)).complete

/-- ILLEGAL (45_control.md R233): raises ILLEGAL_CMD; the word is not recorded anywhere. -/
def execIllegal (_w : Word) (s : State) : Result := .next (s.fail .illegalCmd)

end Sys2Proof.Machine
end

