-- ==== Sys2Proof/Machine/Dispatch.lean ====
section
/-! DEFINITION. One arm per command (30_encoding.md R91, `execute`). -/

namespace Sys2Proof.Machine

def exec (i : Instr) (s : State) : Host.Outcome State Fault Refusal :=
  match i with
  | .nop => Sys2Proof.Machine.execNop s
  | .cfgCommit => Sys2Proof.Machine.execCfgCommit s
  | .encHdr => Sys2Proof.Machine.execEncHdr s
  | .quantize => Sys2Proof.Machine.execQuantize s
  | .pack => Sys2Proof.Machine.execPack s
  | .assemble => Sys2Proof.Machine.execAssemble s
  | .encFrame => Sys2Proof.Machine.execEncFrame s
  | .softReset => Sys2Proof.Machine.execSoftReset s
  | .illegal w => Sys2Proof.Machine.execIllegal w s

end Sys2Proof.Machine
end

