-- ==== Sys2Proof/WellFormed.lean ====
section
/-! DEFINITION. Which commands are well formed: an illegal command's word must be one that
30_encoding.md R91 maps to no other command. -/

namespace Sys2Proof

/-- 45_control.md R233: "every w with `w[31:8] ≠ 0` or `w[7:0] ≥ 0x08`". -/
def illegalWord (w : Word) : Bool :=
  w.extractLsb' 8 24 != 0#24 || decide (8 ≤ (w.extractLsb' 0 8).toNat)

/-- The named commands have one encoding each and are always well formed. -/
def Instr.wellFormed : Instr → Bool
  | .nop => true
  | .cfgCommit => true
  | .encHdr => true
  | .quantize => true
  | .pack => true
  | .assemble => true
  | .encFrame => true
  | .softReset => true
  | .illegal w => illegalWord w

end Sys2Proof
end

