-- ==== Sys2Proof/Decode.lean ====
section
/-! DEFINITION. Decoding of command words, total on every 32-bit word (30_encoding.md R90 to R94),
and the encoder. -/

namespace Sys2Proof

/-- The OPCODE field, bits 7:0 (30_encoding.md R90). -/
def opcodeField (w : Word) : Byte := w.extractLsb' 0 8

/-- The RSVD field, bits 31:8 (30_encoding.md R90). -/
def reservedField (w : Word) : BitVec 24 := w.extractLsb' 8 24

/-- 30_encoding.md R91: the reserved bits are looked at first (R92), then the opcode; the
reserved opcodes 0x08 to 0xFF are illegal (R93). Every word that is no command decodes, by name,
to `illegal`. -/
def decode (w : Word) : Instr :=
  if reservedField w ≠ 0#24 then .illegal w
  else match (opcodeField w).toNat with
    | 0x00 => .nop
    | 0x01 => .cfgCommit
    | 0x02 => .encHdr
    | 0x03 => .quantize
    | 0x04 => .pack
    | 0x05 => .assemble
    | 0x06 => .encFrame
    | 0x07 => .softReset
    | _ => .illegal w

/-- The command word of each row of the opcode table (30_encoding.md R91: match 0x000000NN). -/
def encode : Instr → Word
  | .nop => 0x00000000#32
  | .cfgCommit => 0x00000001#32
  | .encHdr => 0x00000002#32
  | .quantize => 0x00000003#32
  | .pack => 0x00000004#32
  | .assemble => 0x00000005#32
  | .encFrame => 0x00000006#32
  | .softReset => 0x00000007#32
  | .illegal w => w

/-- The decoder on a word numbered as spec/opcode_table.json numbers it. A command is one 32-bit
word, captured whole at the CMD write (20_memory.md R78), so there is no byte order to apply; bits
above `nbits` are 0, and a word that does not fit its bits is no command word (log entry 15). -/
def decodeTableWord (nbits w : Nat) : Option Instr :=
  if nbits ≤ 32 ∧ w < 2 ^ nbits then some (decode (BitVec.ofNat 32 w)) else none

end Sys2Proof
end

