-- ==== Sys2Proof/Machine/Flags.lean ====
section
/-! DEFINITION. The STATUS register: its word, its write-one-to-clear bits, and the interrupt
line that follows from it (10_state.md R24, R27, R51). -/

namespace Sys2Proof.Machine

/-- STATUS.BUSY "reads 1 exactly when `pending ≠ none`" (10_state.md R24, R50). -/
def State.busy (s : State) : Bool := s.pending.isSome

/-- A flag at its bit position. -/
def flagBit (f : Bool) (n : Nat) : Word := (BitVec.ofBool f).setWidth 32 <<< n

/-- The word a read of STATUS returns (10_state.md R24): bits 31:5 read 0. -/
def State.statusWord (s : State) : Word :=
  flagBit s.regs.cfgValid 0 ||| flagBit s.busy 1 ||| flagBit s.regs.done 2 |||
    flagBit s.regs.err 3 ||| flagBit s.regs.errMulti 4

/-- Writing 1 to STATUS.DONE (10_state.md R24). -/
def Regs.ackDone (r : Regs) (one : Bool) : Regs := if one then { r with done := false } else r

/-- Writing 1 to STATUS.ERR clears ERR, ERR_MULTI and ERR_CODE (10_state.md R24). -/
def Regs.ackErr (r : Regs) (one : Bool) : Regs := if one then r.clearError else r

/-- Writing 1 to STATUS.ERR_MULTI clears it alone (10_state.md R24). -/
def Regs.ackErrMulti (r : Regs) (one : Bool) : Regs :=
  if one then { r with errMulti := false } else r

/-- A write to STATUS "applies its W1C bits in the order DONE, ERR, ERR_MULTI and ignores bits 0,
1 and 31:5" (10_state.md R24). -/
def Regs.writeStatus (r : Regs) (v : Word) : Regs :=
  ((r.ackDone (v.getLsbD 2)).ackErr (v.getLsbD 3)).ackErrMulti (v.getLsbD 4)

/-- The level output `irq` (10_state.md R51; 60_exceptions.md R262). -/
def State.irq (s : State) : Bool :=
  s.regs.done && s.regs.irqEn.getLsbD 0 || s.regs.err && s.regs.irqEn.getLsbD 1

end Sys2Proof.Machine
end

