-- ==== Sys2Proof/Machine/HostPort.lean ====
section
/-! DEFINITION. The host port (20_memory.md): the address map, reads and writes, the host agent's
steps, and the host-program syntax of 30_encoding.md R120 and R121. -/

namespace Sys2Proof.Machine

/-! ### Reads -/

/-- The value a read of a register offset returns (10_state.md R21 to R41): `none` for an unlisted
offset (R42). Reserved bits read 0; CMD reads 0 (R23). -/
def State.readRegister (s : State) (off : Nat) : Option Word :=
  match off with
  | 0x00 => some 0
  | 0x04 => some s.statusWord
  | 0x08 => some (s.regs.errCode.setWidth 32)
  | 0x0C => some (s.regs.cfgErr.setWidth 32)
  | 0x10 => some (s.regs.irqEn.setWidth 32)
  | 0x14 => some s.regs.nMaxReg
  | 0x20 => some s.regs.cfgSpf
  | 0x24 => some (s.regs.cfgBps.setWidth 32)
  | 0x28 => some s.regs.cfgChannels
  | 0x2C => some (s.regs.cfgThreadId.setWidth 32)
  | 0x30 => some (s.regs.cfgStationId.setWidth 32)
  | 0x34 => some (s.regs.cfgVdifVersion.setWidth 32)
  | 0x38 => some (s.regs.cfgMode.setWidth 32)
  | 0x40 => some s.regs.payloadBytes
  | 0x44 => some s.regs.frameLengthUnits
  | 0x48 => some s.regs.frameBytes
  | 0x4C => some (s.regs.log2Channels.setWidth 32)
  | 0x50 => some s.regs.epochSeconds
  | 0x54 => some s.regs.frameNumber
  | _ => none

/-- The base address of a buffer's window (20_memory.md R61). -/
def BufName.base : BufName → Nat
  | .hdr => 0x00001000
  | .samp => 0x01000000
  | .code => 0x02000000
  | .pay => 0x03000000
  | .frame => 0x04000000

/-- The access at `a` lies in the buffer's window, its last byte `a + 3` too (20_memory.md R62,
R65). -/
def BufName.covers (nMax a : Nat) (b : BufName) : Bool :=
  decide (b.base ≤ a) && decide (a + 3 < b.base + b.size nMax)

/-- The buffer whose window an access at `a` lies in (20_memory.md R61). -/
def bufferAt (nMax a : Nat) : Option BufName :=
  [BufName.hdr, .samp, .code, .pay, .frame].find? (BufName.covers nMax a)

/-- The word at offset `o` of a buffer, lowest-addressed byte least significant (20_memory.md
R68). -/
def State.readWord (s : State) (b : BufName) (o : Nat) : Word :=
  wordOfBytes (s.readCell b o 0) (s.readCell b (o + 1) 1) (s.readCell b (o + 2) 2)
    (s.readCell b (o + 3) 3)

/-- `MemRead(a, 4)` (20_memory.md R62). It changes no state; the draw places it takes are passed
over by `hostRead`. -/
def State.memRead (s : State) (a : Word) : Resp × Word :=
  if a.toNat % 4 ≠ 0 then (.error, 0)
  else if a.toNat < 0x100 then
    match s.readRegister a.toNat with
    | some v => (.okay, v)
    | none => (.error, 0)
  else match bufferAt s.nMax a.toNat with
    | some b => if s.busy then (.error, 0) else (.okay, s.readWord b (a.toNat - b.base))
    | none => (.error, 0)

/-! ### Writes -/

/-- A write to a CFG_* register clears CFG_VALID, whether or not the value changed (10_state.md
R43). -/
def Regs.unvalidated (r : Regs) : Regs := { r with cfgValid := false }

/-- A CMD write while idle starts a command and clears DONE (10_state.md R23). -/
def State.acceptCommand (s : State) (w : Word) : State :=
  { s with pending := some w, regs := { s.regs with done := false } }

/-- An accepted write to a register other than CMD; `none` for a read-only register
(20_memory.md R66) and an unlisted offset (R65). -/
def Regs.write (r : Regs) (off : Nat) (v : Word) : Option Regs :=
  match off with
  | 0x04 => some (r.writeStatus v)
  | 0x10 => some { r with irqEn := v.setWidth 2 }
  | 0x20 => some { r.unvalidated with cfgSpf := v }
  | 0x24 => some { r.unvalidated with cfgBps := v.setWidth 8 }
  | 0x28 => some { r.unvalidated with cfgChannels := v }
  | 0x2C => some { r.unvalidated with cfgThreadId := v.setWidth 16 }
  | 0x30 => some { r.unvalidated with cfgStationId := v.setWidth 16 }
  | 0x34 => some { r.unvalidated with cfgVdifVersion := v.setWidth 8 }
  | 0x38 => some { r.unvalidated with cfgMode := v.setWidth 4 }
  | 0x50 => some { r with epochSeconds := v }
  | 0x54 => some { r with frameNumber := v }
  | _ => none

/-- An accepted write to the register window (20_memory.md R63). -/
def State.writeRegister (s : State) (off : Nat) (v : Word) : Option State :=
  if off = 0 then some (s.acceptCommand v)
  else (s.regs.write off v).map s.setRegs

/-- The buffers the host may write (20_memory.md R61, R66). -/
def BufName.hostWritable : BufName → Bool
  | .hdr => false
  | .samp => true
  | .code => true
  | .pay => false
  | .frame => false

/-- `MemWrite(a, 4, v)` (20_memory.md R63): a write that returns ERROR changes no state. -/
def State.memWrite (s : State) (a v : Word) : Resp × State :=
  if a.toNat % 4 ≠ 0 then (.error, s)
  else if s.busy then (.error, s)
  else if a.toNat < 0x100 then
    match s.writeRegister a.toNat v with
    | some t => (.okay, t)
    | none => (.error, s)
  else match bufferAt s.nMax a.toNat with
    | some b =>
      if b.hostWritable then (.okay, s.writeBytes b (a.toNat - b.base) (wordBytes v))
      else (.error, s)
    | none => (.error, s)

/-! ### The host agent -/

/-- The host keeps the access and the port's reply (log entry 2). -/
def State.noteReply (s : State) (r : Reply) : State := { s with replies := r :: s.replies }

/-- A host read: the reply is kept, and the four draw places of the access are passed over
(log entry 8). -/
def State.hostRead (s : State) (a : Word) : State :=
  (s.drew 4).noteReply (.read a (s.memRead a).1 (s.memRead a).2)

/-- A host write. -/
def State.hostWrite (s : State) (a v : Word) : State :=
  (s.memWrite a v).2.noteReply (.write a (s.memWrite a v).1)

/-- The address of CMD (10_state.md R21). -/
def commandAddress : Word := 0x00000000

/-- The address of STATUS (10_state.md R21). -/
def statusAddress : Word := 0x00000004

/-- One step of the host: its next operation (20_memory.md R75). `wait` reads STATUS and is
repeated while bit 1, BUSY, of the result is 1 (30_encoding.md R121; log entry 9). A host with no
operation left makes no access (log entry 16). -/
def State.hostTurn (s : State) : State :=
  match s.program with
  | [] => s
  | .rd a :: p => ({ s with program := p } : State).hostRead a
  | .wr a v :: p => ({ s with program := p } : State).hostWrite a v
  | .wait :: p =>
    if (s.memRead statusAddress).2.getLsbD 1 then s.hostRead statusAddress
    else ({ s with program := p } : State).hostRead statusAddress

/-! ### Host-program syntax -/

/-- A line of a host program (30_encoding.md R120, R121). -/
inductive HostLine where
  | wr (a v : Word)
  | rd (a : Word)
  /-- `cmd NAME`: the command's word is written to CMD. -/
  | cmd (i : Instr)
  /-- `cmd.raw W`. -/
  | cmdRaw (w : Word)
  | wait
  /-- `wrs I, X`: sample I := binary64 word X. -/
  | wrs (i : Nat) (x : Binary64)
  | clr
  deriving DecidableEq, Repr

/-- The port accesses a line stands for (30_encoding.md R120, R121; log entry 17). -/
def HostLine.expand : HostLine → List HostOp
  | .wr a v => [.wr a v]
  | .rd a => [.rd a]
  | .cmd i => [.wr commandAddress (encode i)]
  | .cmdRaw w => [.wr commandAddress w]
  | .wait => [.wait]
  | .wrs i x =>
    [.wr (BitVec.ofNat 32 (0x01000000 + 8 * i)) (x.extractLsb' 0 32),
     .wr (BitVec.ofNat 32 (0x01000004 + 8 * i)) (x.extractLsb' 32 32)]
  | .clr => [.wr statusAddress 0x0000001C]

/-- The host operations of a whole program (30_encoding.md R120). -/
def expandProgram (lines : List HostLine) : List HostOp := lines.flatMap HostLine.expand

/-- The access started a command: a CMD write that the port accepted (10_state.md R23). A refused one
started none (log entry 18). -/
def Reply.startedCommand : Reply → Bool
  | .write a .okay => a == commandAddress
  | .write _ .error => false
  | .read _ _ _ => false

/-- A run has ended when the last listed operation has returned and, if that operation was a CMD
write, its command has completed (70_reset_and_hazards.md R292; log entry 18). -/
def State.runEnded (s : State) : Bool :=
  s.program.isEmpty && (!(s.replies.head?.any Reply.startedCommand) || s.pending.isNone)

end Sys2Proof.Machine
end

