-- ==== Sys2Proof/Machine/Step.lean ====
section
/-! DEFINITION. One step of the machine (20_memory.md R75): a host access, an engine step, or the
reset input. -/

namespace Sys2Proof.Machine

/-- The engine's step: the pending command is decoded and executed as a whole (60_exceptions.md
R254). With nothing pending it is not enabled, and nothing happens (log entry 16). -/
def State.engineTurn (s : State) : Host.Outcome State Fault Refusal :=
  match s.pending with
  | some w => exec (decode w) s
  | none => .next s

/-- One step. The list of turns says who moves; any interleaving is some list (20_memory.md R75).
When the list is used up, a pending command completes before the host goes on (log entry 1). -/
def step (s : State) : Host.Outcome State Fault Refusal :=
  match s.turns with
  | .engine :: ts => ({ s with turns := ts } : State).engineTurn
  | .host :: ts => .next ({ s with turns := ts } : State).hostTurn
  | .rst :: ts => .next ({ s with turns := ts } : State).hardReset
  | [] => if s.busy then s.engineTurn else .next s.hostTurn

/-- The command word where the engine takes its next command from, `pending`, and the turn the
engine's; bits above `nbits` are 0 (log entry 2). -/
def State.withFetchWord (s : State) (nbits w : Nat) : State :=
  { s with pending := some (BitVec.ofNat 32 (w % 2 ^ nbits)), turns := [] }

end Sys2Proof.Machine
end

