-- ==== Sys2Proof/Safety.lean ====
section
/-! DEFINITION. What claims about the VFE are stated in: an accepted configuration, the state
invariant, and the relations between states that frames use. -/

namespace Sys2Proof.Machine

/-- A configuration that no check of 40_config.md R133 rejects, said positively. -/
structure Regs.Accepted (r : Regs) : Prop where
  bps : 1 ≤ r.cfgBps.toNat ∧ r.cfgBps.toNat ≤ 8
  channels : ∃ k, k ≤ 31 ∧ r.cfgChannels.toNat = 2 ^ k
  station : r.cfgStationId.toNat / 256 ≤ 0x7F ∧ r.cfgStationId.toNat % 256 ≤ 0x7F
  frameLength : (32 + (r.cfgSpf.toNat * r.cfgBps.toNat + 7) / 8) % 8 = 0
  spf : 1 ≤ r.cfgSpf.toNat ∧ r.cfgSpf.toNat ≤ r.nMaxReg.toNat
  version : r.cfgVdifVersion.toNat ≤ 7
  thread : r.cfgThreadId.toNat ≤ 1023
  policy : r.cfgMode.getLsbD 0 = true → r.cfgBps.toNat = 2
  layout : r.cfgMode.toNat / 4 = 0

/-- Check i of 40_config.md R133 fails on the raw register values. -/
def Regs.CheckFails (r : Regs) (i : Nat) : Prop :=
  match i with
  | 1 => r.cfgBps.toNat < 1 ∨ 8 < r.cfgBps.toNat
  | 2 => ¬ ∃ k, r.cfgChannels.toNat = 2 ^ k
  | 3 => 0x7F < r.cfgStationId.toNat / 256 ∨ 0x7F < r.cfgStationId.toNat % 256
  | 4 => (32 + (r.cfgSpf.toNat * r.cfgBps.toNat + 7) / 8) % 8 ≠ 0
  | 5 => r.cfgSpf.toNat = 0 ∨ r.nMaxReg.toNat < r.cfgSpf.toNat
  | 6 => 7 < r.cfgVdifVersion.toNat
  | 7 => 1023 < r.cfgThreadId.toNat
  | 8 => r.cfgMode.getLsbD 0 = true ∧ r.cfgBps.toNat ≠ 2
  | 9 => r.cfgMode.toNat / 4 ≠ 0
  | _ => False

/-- The derived registers are those of the configuration (40_config.md R131, R132, R135). -/
structure Regs.Derived (r : Regs) : Prop where
  payload : r.payloadBytes.toNat = (r.cfgSpf.toNat * r.cfgBps.toNat + 7) / 8
  frame : r.frameBytes.toNat = 32 + r.payloadBytes.toNat
  channels : r.cfgChannels.toNat = 2 ^ r.log2Channels.toNat
  mask : r.cfgErr = 0

/-- The invariant of the machine. -/
structure State.Inv (s : State) : Prop where
  /-- N_MAX is a legal value (00_scope.md R8). -/
  nMax : Config.legalNMax s.nMax = true
  /-- Every buffer is in canonical form and holds no cell outside its size (10_state.md R44 to
  R48). -/
  buffers : ∀ b, (s.buf b).wf ∧ (s.buf b).within (b.size s.nMax)
  /-- While CFG_VALID = 1 the configuration is one that passed the checks (40_config.md R142). -/
  accepted : s.regs.cfgValid = true → s.regs.Accepted
  /-- While CFG_VALID = 1 the derived registers agree with it (45_control.md R234). -/
  derived : s.regs.cfgValid = true → s.regs.Derived
  /-- `frameLengthUnits * 8 = FRAME_BYTES`, both 0 without a valid commit (40_config.md R132). -/
  units : s.regs.frameBytes.toNat = s.regs.frameLengthUnits.toNat * 8
  /-- No recorded error means no code and no ERR_MULTI (10_state.md R24, R25). -/
  noError : s.regs.err = false → s.regs.errCode = 0 ∧ s.regs.errMulti = false
  /-- A recorded error has one of the codes of 60_exceptions.md R251. -/
  someError : s.regs.err = true → ∃ e : CmdError, s.regs.errCode = e.code
  /-- A pending command has cleared DONE (10_state.md R23, R24). -/
  pendingNotDone : s.pending.isSome = true → s.regs.done = false

/-- Every cell of every buffer reads the same in both states. -/
def SameBuffers (s t : State) : Prop := ∀ b o, (t.buf b).read o = (s.buf b).read o

/-- Every cell of every buffer but `b` reads the same in both states. -/
def SameBuffersBut (b : BufName) (s t : State) : Prop :=
  ∀ c, c ≠ b → ∀ o, (t.buf c).read o = (s.buf c).read o

/-- The host agent's and the schedule's part of both states is the same: a command does not touch
it. -/
def SameEnvironment (s t : State) : Prop :=
  t.turns = s.turns ∧ t.program = s.program ∧ t.replies = s.replies

/-- The registers no command but CFG_COMMIT and SOFT_RESET may change: all but STATUS and
ERR_CODE. -/
def SameConfiguration (r q : Regs) : Prop :=
  q = { r with done := q.done, err := q.err, errMulti := q.errMulti, errCode := q.errCode }

/-- The next step is the host's, with the turns `ts` left after it: its turn is listed, or the list is
used up and nothing is pending (the second is the model's choice, log entry 1). -/
def State.HostMoves (s : State) (ts : List Turn) : Prop :=
  s.turns = .host :: ts ∨ (s.turns = [] ∧ ts = [] ∧ s.pending = none)

/-- Every sample of the frame is finite (41_quantizer.md R151). -/
def State.FiniteSamples (s : State) : Prop :=
  ∀ i, i < s.regs.cfgSpf.toNat → isFinite64 (s.sampleWord i) = true

/-- When a command fails, by the causes of 60_exceptions.md R251: whatever ERR was before. -/
def State.CommandFails (s : State) : Instr → Prop
  | .nop => False
  | .softReset => False
  | .illegal _ => True
  | .cfgCommit => ¬ s.regs.Accepted
  | .encHdr => s.regs.cfgValid = false
  | .pack => s.regs.cfgValid = false
  | .assemble => s.regs.cfgValid = false
  | .quantize => s.regs.cfgValid = false ∨ ¬ s.FiniteSamples
  | .encFrame => s.regs.cfgValid = false ∨ ¬ s.FiniteSamples

/-- The registers after a failure: only STATUS and ERR_CODE change (60_exceptions.md R256, R257). -/
def Regs.failedWith (r : Regs) (code : Byte) : Regs :=
  { r with
    done := true
    err := true
    errMulti := r.errMulti || r.err
    errCode := if r.err then r.errCode else code }

/-- The exact rational of a finite binary64 word, as 30_encoding.md R111 writes it. -/
def exactValue (x : Binary64) : ℚ :=
  (if x.toNat / 2 ^ 63 = 1 then -1 else 1) *
    (if x.toNat / 2 ^ 52 % 2 ^ 11 = 0 then ((x.toNat % 2 ^ 52 : ℕ) : ℚ) * (2 : ℚ) ^ (-1074 : ℤ)
     else ((2 ^ 52 + x.toNat % 2 ^ 52 : ℕ) : ℚ) *
      (2 : ℚ) ^ (((x.toNat / 2 ^ 52 % 2 ^ 11 : ℕ) : ℤ) - 1075))

/-- Threshold j of an ascending list, as 41_quantizer.md R153 writes it: h = (N − 1)·j/4, its floor
`lo`, and the interpolation between `y[lo]` and `y[lo + 1]` by h − lo. -/
def interpolated (y : List ℚ) (j : ℕ) : ℚ :=
  let h : ℚ := ((y.length : ℚ) - 1) * j / 4
  let lo := ⌊h⌋.toNat
  y.getD lo 0 + (h - ⌊h⌋) * (y.getD (lo + 1) 0 - y.getD lo 0)

/-- Every sample byte the configuration names was written. -/
def State.SamplesWritten (s : State) : Prop :=
  ∀ o, o < 8 * s.regs.spf → (s.samp.read o).isSome = true

end Sys2Proof.Machine
end

