-- ==== Sys2Proof/Certificates/Slice0/Obligations.lean ====
section
/-! DEFINITION. The statements for the provers. -/

open Sys2Proof Sys2Proof.Machine

/-! ### Encoding -/

/-- A few command words, written out from 30_encoding.md R90 and R91 and the vectors C1 to C8 of
95_test_vectors.md, decode to the commands they stand for. -/
def Obligations.ExampleWordsDecode : Prop :=
  decode 0x00000000#32 = .nop ∧ decode 0x00000001#32 = .cfgCommit ∧
    decode 0x00000002#32 = .encHdr ∧ decode 0x00000003#32 = .quantize ∧
    decode 0x00000004#32 = .pack ∧ decode 0x00000005#32 = .assemble ∧
    decode 0x00000006#32 = .encFrame ∧ decode 0x00000007#32 = .softReset ∧
    decode 0x00000008#32 = .illegal 0x00000008#32 ∧ decode 0x000000FF#32 = .illegal 0x000000FF#32 ∧
    decode 0x00000104#32 = .illegal 0x00000104#32 ∧ decode 0x80000001#32 = .illegal 0x80000001#32

/-- 30_encoding.md R92 and R93: a word with a reserved bit set, and a word whose opcode is 0x08 or
more, is illegal, and there is no other illegal word. -/
def Obligations.OtherWordsAreIllegal : Prop :=
  ∀ w : Word, (w.toNat / 256 ≠ 0 ∨ 8 ≤ w.toNat % 256) ↔ decode w = .illegal w

/-- Decoding and encoding agree, both ways, on every command and every word (30_encoding.md R90 to
R94). -/
def Obligations.DecodeEncodeAgree : Prop :=
  (∀ i : Instr, i.wellFormed = true → decode (encode i) = i) ∧
    ∀ w : Word, encode (decode w) = w ∧ (decode w).wellFormed = true

/-! ### The machine as a whole -/

/-- A step at which the engine moves is exec of the decoded pending word: by its turn, which is
then used up, or, when no turn is listed, because a command is pending (the second is the model's
choice, log entry 1). -/
def Obligations.EngineStepExecutesPendingWord : Prop :=
  ∀ (s : State) (w : Word), s.pending = some w →
    (∀ ts, s.turns = .engine :: ts →
      step s = exec (decode w) ({ s with turns := ts } : State)) ∧
    (s.turns = [] → step s = exec (decode w) s)

/-- 20_memory.md R75: a host step is one port access, and nothing else of the VFE's state moves, by a
turn listed or, with no turn listed and nothing pending, without one. The rest is the model's choice:
the step without a listed turn (log entry 1), what is kept of the access and of the program (log
entry 2), and the four draw places a read passes over (log entry 8). -/
def Obligations.HostStepIsOneAccess : Prop :=
  ∀ (s : State) (ts : List Turn) (a v : Word) (p : List HostOp), s.HostMoves ts →
    (s.program = .rd a :: p →
      step s = .next ({ s with
        turns := ts, program := p, draws := s.draws + 4
        replies := .read a (s.memRead a).1 (s.memRead a).2 :: s.replies } : State)) ∧
    (s.program = .wr a v :: p →
      step s = .next ({ (s.memWrite a v).2 with
        turns := ts, program := p
        replies := .write a (s.memWrite a v).1 :: s.replies } : State))

/-- Every command completes in one step, whatever the state: nothing is pending afterwards, DONE is
set, and the host's part of the state is untouched (60_exceptions.md R254, R271). -/
def Obligations.EveryCommandCompletes : Prop :=
  ∀ (i : Instr) (s : State), ∃ t, exec i s = .next t ∧ t.pending = none ∧ t.regs.done = true ∧
    t.regs.nMaxReg = s.regs.nMaxReg ∧ SameEnvironment s t

/-- No step stops the machine (60_exceptions.md R271: no stuck state, no hang). -/
def Obligations.NoStepStopsTheMachine : Prop :=
  ∀ s : State, ∃ t, step s = .next t

/-- Every step keeps the invariant: legal N_MAX, canonical buffers inside their sizes, a validated
configuration with derived registers that agree with it while CFG_VALID = 1, an error record that
is consistent, and no DONE while a command is pending. -/
def Obligations.StepKeepsInvariant : Prop :=
  ∀ s t : State, s.Inv → step s = .next t → t.Inv

/-- The state after reset meets the invariant, for every legal N_MAX. -/
def Obligations.ResetMeetsInvariant : Prop :=
  State.reset.Inv ∧ ∀ n : Word, Config.legalNMax n.toNat = true → (State.resetWith n).Inv

/-- 70_reset_and_hazards.md R280: what asserting `rst` leaves, at any time, a command pending or
not (R281). N_MAX_REG is a constant. -/
def Obligations.HardResetAtAnyTime : Prop :=
  ∀ (s : State) (ts : List Turn), s.turns = .rst :: ts →
    ∃ t, step s = .next t ∧
      t.regs = { cfgValid := false, done := false, err := false, errMulti := false,
                 errCode := 0x00, cfgErr := 0, irqEn := 0, nMaxReg := s.regs.nMaxReg,
                 cfgSpf := 20000, cfgBps := 2, cfgChannels := 1, cfgThreadId := 0,
                 cfgStationId := 0x4141, cfgVdifVersion := 0, cfgMode := 0,
                 payloadBytes := 0, frameLengthUnits := 0, frameBytes := 0, log2Channels := 0,
                 epochSeconds := 0, frameNumber := 0 } ∧
      t.pending = none ∧ (∀ b o, (t.buf b).read o = none) ∧ t.irq = false ∧
      t.statusWord = 0x00000000

/-! ### Control commands -/

/-- 45_control.md R230: NOP does nothing and completes; its word is 0. -/
def Obligations.NopOnlyCompletes : Prop :=
  decode 0x00000000#32 = .nop ∧
    ∀ s : State, exec .nop s =
      .next ({ s with pending := none, regs := { s.regs with done := true } } : State)

/-- 45_control.md R233: every word that is no command raises ILLEGAL_CMD (0x10), which is recorded
by the failure path; no other register and no buffer cell changes. -/
def Obligations.IllegalCommandIsRecorded : Prop :=
  ∀ (w : Word) (s : State), w.toNat / 256 ≠ 0 ∨ 8 ≤ w.toNat % 256 →
    exec (decode w) s = .next ({ s with
      pending := none
      regs := { s.regs with
        done := true, err := true
        errMulti := if s.regs.err then true else s.regs.errMulti
        errCode := if s.regs.err then s.regs.errCode else 0x10 } } : State)

/-- 45_control.md R232: SOFT_RESET puts every register but CMD and N_MAX_REG at its reset value,
keeps every buffer cell, and completes, so STATUS = 0x04 and `irq` = 0. -/
def Obligations.SoftResetRestoresRegisters : Prop :=
  decode 0x00000007#32 = .softReset ∧ ∀ s : State, ∃ t, exec .softReset s = .next t ∧
    t = { s with
      pending := none
      regs := { cfgValid := false, done := true, err := false, errMulti := false,
                errCode := 0x00, cfgErr := 0, irqEn := 0, nMaxReg := s.regs.nMaxReg,
                cfgSpf := 20000, cfgBps := 2, cfgChannels := 1, cfgThreadId := 0,
                cfgStationId := 0x4141, cfgVdifVersion := 0, cfgMode := 0,
                payloadBytes := 0, frameLengthUnits := 0, frameBytes := 0, log2Channels := 0,
                epochSeconds := 0, frameNumber := 0 } } ∧
    t.statusWord = 0x00000004 ∧ t.irq = false

/-! ### Configuration commit -/

/-- 40_config.md R130 to R132, R135: a commit of an acceptable configuration derives the sizes,
sets CFG_VALID, clears CFG_ERR, completes, and changes nothing else. -/
def Obligations.CommitAcceptsValidConfiguration : Prop :=
  ∀ s : State, Config.legalNMax s.nMax = true → s.regs.Accepted →
    ∃ t, exec .cfgCommit s = .next t ∧
      t = { s with
        pending := none
        regs := { s.regs with
          cfgErr := 0, cfgValid := true, done := true
          payloadBytes := t.regs.payloadBytes, frameBytes := t.regs.frameBytes
          frameLengthUnits := t.regs.frameLengthUnits, log2Channels := t.regs.log2Channels } } ∧
      t.regs.payloadBytes.toNat = (s.regs.cfgSpf.toNat * s.regs.cfgBps.toNat + 7) / 8 ∧
      t.regs.frameBytes.toNat = 32 + t.regs.payloadBytes.toNat ∧
      t.regs.frameLengthUnits.toNat * 8 = 32 + t.regs.payloadBytes.toNat ∧
      2 ^ t.regs.log2Channels.toNat = s.regs.cfgChannels.toNat

/-- 40_config.md R130, R133, R141 and 60_exceptions.md R256, R257: when any check fails, the commit
records every failing check in CFG_ERR, zeroes the derived registers, clears CFG_VALID, and raises
the code of the lowest failing check; nothing else changes. -/
def Obligations.CommitRejectsInvalidConfiguration : Prop :=
  ∀ (s : State) (i : Nat), s.regs.CheckFails i → (∀ j, j < i → ¬ s.regs.CheckFails j) →
    ∃ t, exec .cfgCommit s = .next t ∧
      t = { s with
        pending := none
        regs := { s.regs with
          cfgErr := t.regs.cfgErr, cfgValid := false, done := true
          payloadBytes := 0, frameBytes := 0, frameLengthUnits := 0, log2Channels := 0
          err := true, errMulti := s.regs.errMulti || s.regs.err
          errCode := if s.regs.err then s.regs.errCode else BitVec.ofNat 8 i } } ∧
      ∀ j, j < 9 → (t.regs.cfgErr.getLsbD j = true ↔ s.regs.CheckFails (j + 1))

/-- Every configuration is acceptable or fails one of the nine checks of 40_config.md R133, and not
both; and the mask that CFG_COMMIT computes is 0 exactly on the acceptable ones. -/
def Obligations.ChecksDecideAcceptance : Prop :=
  ∀ r : Regs, (r.Accepted ↔ ∀ i, 1 ≤ i → i ≤ 9 → ¬ r.CheckFails i) ∧
    (r.checkMask = 0 ↔ r.Accepted)

/-- 40_config.md R142: a commit depends only on the seven CFG_* registers and N_MAX. -/
def Obligations.CommitDependsOnConfigurationOnly : Prop :=
  ∀ s s' t t' : State, s'.regs.nMaxReg = s.regs.nMaxReg → s'.regs.cfgSpf = s.regs.cfgSpf →
    s'.regs.cfgBps = s.regs.cfgBps → s'.regs.cfgChannels = s.regs.cfgChannels →
    s'.regs.cfgThreadId = s.regs.cfgThreadId → s'.regs.cfgStationId = s.regs.cfgStationId →
    s'.regs.cfgVdifVersion = s.regs.cfgVdifVersion → s'.regs.cfgMode = s.regs.cfgMode →
    exec .cfgCommit s = .next t → exec .cfgCommit s' = .next t' →
    t'.regs.cfgErr = t.regs.cfgErr ∧ t'.regs.cfgValid = t.regs.cfgValid ∧
      t'.regs.payloadBytes = t.regs.payloadBytes ∧ t'.regs.frameBytes = t.regs.frameBytes ∧
      t'.regs.frameLengthUnits = t.regs.frameLengthUnits ∧
      t'.regs.log2Channels = t.regs.log2Channels

/-- 40_config.md R134: which sample counts pass check 4, said of the model's payload size. -/
def Obligations.FrameLengthCheckBySampleCount : Prop :=
  ∀ r : Regs,
    ((32 + r.payloadSize) % 8 = 0 ↔
      r.cfgSpf.toNat * r.cfgBps.toNat % 64 = 0 ∨ 57 ≤ r.cfgSpf.toNat * r.cfgBps.toNat % 64) ∧
    (r.cfgBps = 2 → ((32 + r.payloadSize) % 8 = 0 ↔
      r.cfgSpf.toNat % 32 = 0 ∨ 29 ≤ r.cfgSpf.toNat % 32)) ∧
    (r.cfgBps = 1 → ((32 + r.payloadSize) % 8 = 0 ↔
      r.cfgSpf.toNat % 64 = 0 ∨ 57 ≤ r.cfgSpf.toNat % 64)) ∧
    (r.cfgBps = 8 → ((32 + r.payloadSize) % 8 = 0 ↔ r.cfgSpf.toNat % 8 = 0)) ∧
    (r.cfgBps = 2 → r.cfgSpf = 20000 → (32 + r.payloadSize) % 8 = 0) ∧
    (r.cfgBps = 2 → r.cfgSpf = 20001 → r.payloadSize = 5001 ∧ (32 + r.payloadSize) % 8 ≠ 0)

/-- 00_scope.md R10 and 40_config.md R132: the sizes of an accepted configuration. -/
def Obligations.AcceptedFrameSizesAreBounded : Prop :=
  ∀ s : State, s.Inv → s.regs.cfgValid = true →
    s.regs.cfgSpf.toNat ≤ s.nMax ∧ s.nMax ≤ 2 ^ 21 ∧ s.regs.payloadBytes.toNat ≤ s.nMax ∧
      s.regs.frameLengthUnits.toNat ≤ 262148 ∧ s.regs.frameLengthUnits.toNat < 2 ^ 24 ∧
      s.regs.frameLengthUnits.toNat * 8 = s.regs.frameBytes.toNat ∧
      s.regs.frameBytes.toNat = 32 + s.regs.payloadBytes.toNat

/-! ### The configuration gate and failures -/

/-- 45_control.md R234: without a valid configuration each encode command fails with
NOT_CONFIGURED (0x11) and writes nothing. -/
def Obligations.EncodeNeedsValidConfiguration : Prop :=
  ∀ (i : Instr) (s : State), i ∈ [.encHdr, .quantize, .pack, .assemble, .encFrame] →
    s.regs.cfgValid = false →
    exec i s = .next ({ s with pending := none, regs := s.regs.failedWith 0x11 } : State)

/-- 60_exceptions.md R257: while ERR = 1, no command but SOFT_RESET clears it or changes ERR_CODE
or clears ERR_MULTI. -/
def Obligations.FirstErrorIsKept : Prop :=
  ∀ (i : Instr) (s t : State), i ≠ .softReset → exec i s = .next t → s.regs.err = true →
    t.regs.err = true ∧ t.regs.errCode = s.regs.errCode ∧
      (s.regs.errMulti = true → t.regs.errMulti = true)

/-- 60_exceptions.md R256, R257, R259: a command that fails, whether or not an error was recorded
before, leaves every buffer cell as it was, and of the registers only STATUS and ERR_CODE change, by
the failure path, and for CFG_COMMIT its defined failure writes; and a command that records a first
error is one that fails. Which draws a sample never written takes is the model's choice (log entry
8). -/
def Obligations.FailuresArePrecise : Prop :=
  ∀ (i : Instr) (s t : State), exec i s = .next t →
    (s.regs.err = false → t.regs.err = true → s.CommandFails i) ∧
    (s.CommandFails i → SameBuffers s t ∧ SameEnvironment s t ∧ ∃ e : CmdError,
      (i ≠ .cfgCommit → t.regs = s.regs.failedWith e.code) ∧
      (i = .cfgCommit → t.regs = { s.regs.failedWith e.code with
        cfgErr := t.regs.cfgErr, cfgValid := false, payloadBytes := 0, frameBytes := 0
        frameLengthUnits := 0, log2Channels := 0 }))

/-- 60_exceptions.md R251, R260: which code each command can record. -/
def Obligations.EachCommandReportsItsCodes : Prop :=
  ∀ (i : Instr) (s t : State), exec i s = .next t → s.regs.err = false → t.regs.err = true →
    match i with
    | .nop => False
    | .softReset => False
    | .cfgCommit => 1 ≤ t.regs.errCode.toNat ∧ t.regs.errCode.toNat ≤ 9
    | .illegal _ => t.regs.errCode = 0x10
    | .encHdr => s.regs.cfgValid = false ∧ t.regs.errCode = 0x11
    | .pack => s.regs.cfgValid = false ∧ t.regs.errCode = 0x11
    | .assemble => s.regs.cfgValid = false ∧ t.regs.errCode = 0x11
    | .quantize => t.regs.errCode = if s.regs.cfgValid then 0x12 else 0x11
    | .encFrame => t.regs.errCode = if s.regs.cfgValid then 0x12 else 0x11

/-- 10_state.md R44 to R48: which commands may change a cell of which buffer; SAMP is changed by
none. -/
def Obligations.CommandsWriteOnlyTheirBuffers : Prop :=
  ∀ (i : Instr) (s t : State) (b : BufName) (o : Nat), exec i s = .next t →
    (t.buf b).read o ≠ (s.buf b).read o →
    match b with
    | .hdr => i = .encHdr ∨ i = .encFrame
    | .samp => False
    | .code => i = .quantize ∨ i = .encFrame
    | .pay => i = .pack ∨ i = .encFrame
    | .frame => i = .assemble ∨ i = .encFrame

/-- No command but SOFT_RESET changes a register the host writes (10_state.md R27, R29 to R35,
R40, R41; 45_control.md R236), and only CFG_COMMIT besides changes CFG_VALID, CFG_ERR and the
derived registers (R26, R36 to R39). -/
def Obligations.CommandsKeepHostRegisters : Prop :=
  ∀ (i : Instr) (s t : State), i ≠ .softReset → exec i s = .next t →
    t.regs.irqEn = s.regs.irqEn ∧ t.regs.cfgSpf = s.regs.cfgSpf ∧ t.regs.cfgBps = s.regs.cfgBps ∧
      t.regs.cfgChannels = s.regs.cfgChannels ∧ t.regs.cfgThreadId = s.regs.cfgThreadId ∧
      t.regs.cfgStationId = s.regs.cfgStationId ∧
      t.regs.cfgVdifVersion = s.regs.cfgVdifVersion ∧ t.regs.cfgMode = s.regs.cfgMode ∧
      t.regs.epochSeconds = s.regs.epochSeconds ∧ t.regs.frameNumber = s.regs.frameNumber ∧
      (i ≠ .cfgCommit → SameConfiguration s.regs t.regs)

/-- 10_state.md R51 and 60_exceptions.md R262: after a command other than SOFT_RESET, `irq` is high
exactly when DONE_IE is set, or ERR_IE is set and an error is recorded. -/
def Obligations.CompletionRaisesInterrupt : Prop :=
  ∀ (i : Instr) (s t : State), i ≠ .softReset → exec i s = .next t →
    t.irq = (s.regs.irqEn.getLsbD 0 || (t.regs.err && s.regs.irqEn.getLsbD 1))

/-! ### Quantizer -/

/-- 30_encoding.md R110: byte j of sample i's word is SAMP byte 8i + j, least significant first; which
draw a byte never written takes is the model's choice (log entry 8). 30_encoding.md R111: which
words are finite, and the exact rational each finite one stands for. -/
def Obligations.SampleValuesAreBinary64 : Prop :=
  (∀ (s : State) (i j : Nat), j < 8 →
    (s.sampleWord i).extractLsb' (8 * j) 8 = s.readCell .samp (8 * i + j) (8 * i + j)) ∧
  ∀ x : Binary64, (isFinite64 x = true ↔ x.toNat / 2 ^ 52 % 2 ^ 11 ≠ 0x7FF) ∧
    (isFinite64 x = true → value64 x = exactValue x)

/-- 41_quantizer.md R152: clip-floor is the number of integers k in 1 .. 2^b − 1 with v ≥ k. -/
def Obligations.ClipFloorCountsSteps : Prop :=
  ∀ (v : ℚ) (b : ℕ),
    clipFloor v b = ((List.range (2 ^ b)).countP fun k => decide (1 ≤ k ∧ (k : ℚ) ≤ v) : ℕ)

/-- 41_quantizer.md R150, R152, R156: QUANTIZE under clip-floor with finite samples writes
`min(max(floor(v), 0), 2^b − 1)` of each sample's exact value, and nothing else changes. Which draws
a sample never written takes is the model's choice (log entry 8). -/
def Obligations.QuantizeClipFloor : Prop :=
  ∀ s : State, s.Inv → s.regs.cfgValid = true → s.regs.cfgMode.getLsbD 0 = false →
    s.FiniteSamples →
    ∃ t, exec .quantize s = .next t ∧
      (∀ i, i < s.regs.cfgSpf.toNat → ∃ c : Byte, t.code.read i = some c ∧
        (c.toNat : ℤ) = min (max ⌊exactValue (s.sampleWord i)⌋ 0) (2 ^ s.regs.cfgBps.toNat - 1) ∧
        c.toNat < 2 ^ s.regs.cfgBps.toNat) ∧
      (∀ i, s.regs.cfgSpf.toNat ≤ i → t.code.read i = s.code.read i) ∧
      SameBuffersBut .code s t ∧ SameEnvironment s t ∧ t.pending = none ∧
      t.regs = { s.regs with done := true }

/-- 41_quantizer.md R150, R153, R154, R156: QUANTIZE under the percentile policy with finite
samples writes, for each sample, the number of quartile thresholds strictly below it; the
thresholds are interpolated in any ascending arrangement of the frame's values. Which draws a sample
never written takes is the model's choice (log entry 8). -/
def Obligations.QuantizePercentile : Prop :=
  ∀ (s : State) (y : List ℚ), s.Inv → s.regs.cfgValid = true →
    s.regs.cfgMode.getLsbD 0 = true → s.FiniteSamples →
    y.Perm ((List.range s.regs.cfgSpf.toNat).map fun i => exactValue (s.sampleWord i)) →
    y.Pairwise (· ≤ ·) →
    ∃ t, exec .quantize s = .next t ∧
      (∀ i, i < s.regs.cfgSpf.toNat → ∃ c : Byte, t.code.read i = some c ∧
        c.toNat = [1, 2, 3].countP fun j =>
          decide (interpolated y j < exactValue (s.sampleWord i))) ∧
      (∀ i, s.regs.cfgSpf.toNat ≤ i → t.code.read i = s.code.read i) ∧
      SameBuffersBut .code s t ∧ SameEnvironment s t ∧ t.pending = none ∧
      t.regs = { s.regs with done := true }

/-- 41_quantizer.md R151 and 45_control.md R231: one sample that is not finite makes QUANTIZE and
ENC_FRAME fail with NONFINITE_SAMPLE (0x12), and no buffer cell changes. Which draws a sample never
written takes is the model's choice (log entry 8). -/
def Obligations.NonfiniteSampleFails : Prop :=
  ∀ (i : Instr) (s : State) (k : Nat), i = .quantize ∨ i = .encFrame → s.regs.cfgValid = true →
    k < s.regs.cfgSpf.toNat → isFinite64 (s.sampleWord k) = false →
    ∃ t, exec i s = .next t ∧ SameBuffers s t ∧ SameEnvironment s t ∧ t.pending = none ∧
      t.regs = s.regs.failedWith 0x12

/-- 41_quantizer.md R153: the three thresholds of a frame ascend. -/
def Obligations.ThresholdsAscend : Prop :=
  ∀ v : List ℚ, v ≠ [] →
    ∃ t1 t2 t3, percentileThresholds v = [t1, t2, t3] ∧ t1 ≤ t2 ∧ t2 ≤ t3

/-- 41_quantizer.md R154: percentile codes lie in 0 .. 3 and do not decrease with the sample; the
least sample's code is 0, and where all samples are equal every code is 0. -/
def Obligations.PercentileCodesFollowSamples : Prop :=
  ∀ v : List ℚ, (percentileCodes v).length = v.length ∧
    (∀ i j (hi : i < v.length) (hj : j < v.length), v[i] ≤ v[j] →
      (percentileCodes v).getD i 0 ≤ (percentileCodes v).getD j 0) ∧
    (∀ i, (percentileCodes v).getD i 0 ≤ 3) ∧
    (∀ i (hi : i < v.length), (∀ x ∈ v, v[i] ≤ x) → (percentileCodes v).getD i 0 = 0)

/-- 41_quantizer.md R155: the codes depend on the N samples, b and QPOLICY only, and so does whether
a sample makes the command fail: two states that agree on these both complete, with the same codes,
or both fail with NONFINITE_SAMPLE (0x12) and write no cell. Which draws a sample never written takes
is the model's choice (log entry 8). -/
def Obligations.QuantizerIsPure : Prop :=
  ∀ s s' t t' : State, s.regs.cfgValid = true → s'.regs.cfgValid = true →
    s'.regs.cfgSpf = s.regs.cfgSpf → s'.regs.cfgBps = s.regs.cfgBps →
    s'.regs.cfgMode.getLsbD 0 = s.regs.cfgMode.getLsbD 0 →
    (∀ i, i < s.regs.cfgSpf.toNat → s'.sampleWord i = s.sampleWord i) →
    exec .quantize s = .next t → exec .quantize s' = .next t' →
    (s.FiniteSamples ∧ t.regs = { s.regs with done := true } ∧
        t'.regs = { s'.regs with done := true } ∧
        ∀ i, i < s.regs.cfgSpf.toNat → t'.code.read i = t.code.read i) ∨
      (¬ s.FiniteSamples ∧ t.regs = s.regs.failedWith 0x12 ∧ t'.regs = s'.regs.failedWith 0x12 ∧
        SameBuffers s t ∧ SameBuffers s' t')

/-! ### Bit packer -/

/-- 42_bitpacker.md R170 to R172, R174, R175: PACK fills each payload byte from bit 7 down with the
codes' low b bits, most significant first, one continuous stream, zero where no code supplies a
bit; it writes exactly ceil(N·b/8) bytes, and nothing else changes. Which draw a code never written
takes, place i for code i, is the model's choice (log entry 8). -/
def Obligations.PackWritesBitStream : Prop :=
  ∀ s : State, s.Inv → s.regs.cfgValid = true →
    ∃ t, exec .pack s = .next t ∧
      (∀ p, p < 8 * ((s.regs.cfgSpf.toNat * s.regs.cfgBps.toNat + 7) / 8) →
        ∃ c : Byte, t.pay.read (p / 8) = some c ∧
          c.getLsbD (7 - p % 8) =
            if p < s.regs.cfgSpf.toNat * s.regs.cfgBps.toNat then
              (s.readCell .code (p / s.regs.cfgBps.toNat) (p / s.regs.cfgBps.toNat)).getLsbD
                (s.regs.cfgBps.toNat - 1 - p % s.regs.cfgBps.toNat)
            else false) ∧
      (∀ o, (s.regs.cfgSpf.toNat * s.regs.cfgBps.toNat + 7) / 8 ≤ o →
        t.pay.read o = s.pay.read o) ∧
      SameBuffersBut .pay s t ∧ SameEnvironment s t ∧ t.pending = none ∧
      t.regs = { s.regs with done := true }

/-- 42_bitpacker.md R173: when b divides 8, byte k is the sum of its group's codes, each shifted to
its place, the first on top. -/
def Obligations.PackGroupsWholeBytes : Prop :=
  ∀ (b n k : ℕ) (codes : List Byte), b ∈ [1, 2, 4, 8] → k < n →
    ((packBytes b n codes).getD k 0).toNat =
      ((List.range (8 / b)).map fun i =>
        (codes.getD (k * (8 / b) + i) 0).toNat % 2 ^ b * 2 ^ (8 - b * (i + 1))).sum

/-- 42_bitpacker.md R176: reading the payload back, b bits at a time, gives each code modulo 2^b. -/
def Obligations.UnpackInvertsPack : Prop :=
  ∀ (b n : ℕ) (codes : List Byte), 1 ≤ b → b ≤ 8 → codes.length * b ≤ 8 * n →
    (packBytes b n codes).length = n ∧
      unpackCodes (packBytes b n codes) b codes.length = codes.map fun c => c.toNat % 2 ^ b

/-! ### Header encoder -/

/-- 43_header.md R194 to R202 and 30_encoding.md R96 to R102: the eight header words as the host
reads them back from HDR, every field at its place and untruncated, word 0 under both settings of
SECMODE, and nothing else changes. -/
def Obligations.EncodeHeaderWritesHeader : Prop :=
  ∀ s : State, s.Inv → s.regs.cfgValid = true →
    ∃ t, exec .encHdr s = .next t ∧
      ((t.readWord .hdr 0).toNat : ℤ) =
        (if s.regs.cfgMode.getLsbD 1 then
          s.regs.epochSeconds.toNat - halfYearStart (refEpochMath s.regs.epochSeconds.toNat)
        else s.regs.epochSeconds.toNat % 2 ^ 30) ∧
      ((t.readWord .hdr 4).toNat : ℤ) =
        refEpochMath s.regs.epochSeconds.toNat % 64 * 2 ^ 26 + s.regs.frameNumber.toNat % 2 ^ 24 ∧
      (t.readWord .hdr 8).toNat = s.regs.cfgVdifVersion.toNat * 2 ^ 29 +
        s.regs.log2Channels.toNat * 2 ^ 24 + s.regs.frameLengthUnits.toNat ∧
      (t.readWord .hdr 12).toNat = (s.regs.cfgBps.toNat - 1) * 2 ^ 26 +
        s.regs.cfgThreadId.toNat * 2 ^ 16 + s.regs.cfgStationId.toNat ∧
      (∀ o, o ∈ [16, 20, 24, 28] → t.readWord .hdr o = 0) ∧
      (∀ o, o < 32 → (t.hdr.read o).isSome = true) ∧
      (∀ o, 32 ≤ o → t.hdr.read o = s.hdr.read o) ∧
      SameBuffersBut .hdr s t ∧ SameEnvironment s t ∧ t.draws = s.draws ∧ t.pending = none ∧
      t.regs = { s.regs with done := true }

/-- 43_header.md R195 to R197: under both settings of SECMODE bits 31 and 30 of header word 0, the
invalid and legacy flags, are 0, and with SECMODE = 1 the word is at most 15897599. -/
def Obligations.SecondsFieldFitsThirtyBits : Prop :=
  ∀ s : State, s.regs.cfgValid = true →
    ∃ t, exec .encHdr s = .next t ∧
      (t.readWord .hdr 0).getLsbD 31 = false ∧ (t.readWord .hdr 0).getLsbD 30 = false ∧
      (s.regs.cfgMode.getLsbD 1 = true → (t.readWord .hdr 0).toNat ≤ 15897599) ∧
      SameBuffersBut .hdr s t ∧ SameEnvironment s t ∧
      t.pending = none ∧ t.regs = { s.regs with done := true }

/-- 43_header.md R193: a second lies in the half-year of its index, and the index is in the range
of R192. -/
def Obligations.HalfYearBracketsSecond : Prop :=
  ∀ x : ℤ, 0 ≤ x → x < 2 ^ 32 →
    halfYearStart (refEpochMath x) ≤ x ∧ x < halfYearStart (refEpochMath x + 1) ∧
      -60 ≤ refEpochMath x ∧ refEpochMath x ≤ 212

/-- 43_header.md R203: the index does not decrease, and it increases by exactly 1 at each half-year
start of the 32-bit range. -/
def Obligations.RefEpochIsMonotone : Prop :=
  (∀ x y : ℤ, 0 ≤ x → x ≤ y → y < 2 ^ 32 → refEpochMath x ≤ refEpochMath y) ∧
    ∀ k : ℤ, -60 < k → k ≤ 212 →
      refEpochMath (halfYearStart k) = k ∧ refEpochMath (halfYearStart k - 1) = k - 1

/-- 43_header.md R191, R193: the two calendar functions are inverse on every day of the 32-bit
range, and the dates are dates. -/
def Obligations.CalendarRoundTrip : Prop :=
  ∀ z : ℤ, 0 ≤ z → z ≤ 49710 →
    daysFromCivil (civilFromDays z) = z ∧
      1 ≤ (civilFromDays z).month ∧ (civilFromDays z).month ≤ 12 ∧
      1 ≤ (civilFromDays z).day ∧ (civilFromDays z).day ≤ 31

/-- 43_header.md R194: the 6-bit field is the index itself for 2000-01-01 to 2031-12-31, and wraps
outside. -/
def Obligations.RefEpochFieldWraps : Prop :=
  (∀ x : ℤ, 946684800 ≤ x → x < 1956528000 → refEpochMath x % 64 = refEpochMath x) ∧
    refEpochMath 0 % 64 = 4 ∧ refEpochMath 946684799 % 64 = 63 ∧
    refEpochMath 1956528000 % 64 = 0 ∧ refEpochMath 4294967295 % 64 = 20

/-! ### Frame assembler and the whole chain -/

/-- 44_assembler.md R220, R221: ASSEMBLE copies the 32 header bytes and the first P payload bytes
into FRAME, a never-written cell as the draw of its read; FRAME cells from 32 + P on and everything
else are unchanged. Which draw a read takes is the model's choice (log entry 8). -/
def Obligations.AssembleCopiesHeaderAndPayload : Prop :=
  ∀ s : State, s.regs.cfgValid = true →
    ∃ t, exec .assemble s = .next t ∧
      (∀ i, i < 32 → t.frame.read i = some (s.readCell .hdr i i)) ∧
      (∀ i, i < s.regs.payloadBytes.toNat →
        t.frame.read (32 + i) = some (s.readCell .pay i (32 + i))) ∧
      (∀ o, 32 + s.regs.payloadBytes.toNat ≤ o → t.frame.read o = s.frame.read o) ∧
      SameBuffersBut .frame s t ∧ SameEnvironment s t ∧ t.pending = none ∧
      t.regs = { s.regs with done := true }

/-- 45_control.md R235: with CFG_VALID = 1, the engine step of ENC_FRAME leaves the state that
QUANTIZE, PACK, ENC_HDR and ASSEMBLE leave one after the other when no sample fails; when QUANTIZE
would fail with NONFINITE_SAMPLE, ENC_FRAME fails the same way and none of the later parts runs.
That the two ways also leave one draw counter is the model's choice (log entry 8). -/
def Obligations.EncFrameIsTheChain : Prop :=
  ∀ s : State, s.regs.cfgValid = true →
    (s.FiniteSamples → ∃ q p h t, exec .quantize s = .next q ∧ exec .pack q = .next p ∧
      exec .encHdr p = .next h ∧ exec .assemble h = .next t ∧ exec .encFrame s = .next t ∧
      t.regs = { s.regs with done := true }) ∧
    (¬ s.FiniteSamples → ∃ t, exec .quantize s = .next t ∧ exec .encFrame s = .next t ∧
      SameBuffers s t ∧ t.regs = s.regs.failedWith 0x12)

/-- 45_control.md R231 and 44_assembler.md R222: a successful ENC_FRAME leaves a datagram of
32 + P bytes, header then payload, every byte of it written, and SAMP as it was. Which draws a sample never written
takes is the model's choice (log entry 8). -/
def Obligations.EncFrameLeavesWholeDatagram : Prop :=
  ∀ s : State, s.Inv → s.regs.cfgValid = true → s.FiniteSamples →
    ∃ t, exec .encFrame s = .next t ∧
      t.datagram.length = 32 + (s.regs.cfgSpf.toNat * s.regs.cfgBps.toNat + 7) / 8 ∧
      t.datagram = (List.range 32).map t.hdr.read ++
        (List.range s.regs.payloadBytes.toNat).map t.pay.read ∧
      (∀ c ∈ t.datagram, c.isSome = true) ∧ t.samp = s.samp ∧ SameEnvironment s t ∧
      t.pending = none ∧ t.regs = { s.regs with done := true }

/-- 45_control.md R231: once every sample was written, no draw shows in what ENC_FRAME writes:
runs that differ only in the draws leave the same cells. -/
def Obligations.EncFrameHasNoDraws : Prop :=
  ∀ (s t t' : State) (d : Nat), s.regs.cfgValid = true → s.SamplesWritten →
    exec .encFrame s = .next t → exec .encFrame ({ s with draws := d } : State) = .next t' →
    t'.regs = t.regs ∧ ∀ b, t'.buf b = t.buf b

/-! ### Host port -/

/-- 20_memory.md R64: an access at an address that is no multiple of 4 is refused and has no
effect. -/
def Obligations.MisalignedAccessIsRefused : Prop :=
  ∀ (s : State) (a v : Word), a.toNat % 4 ≠ 0 →
    s.memRead a = (.error, 0) ∧ s.memWrite a v = (.error, s)

/-- 20_memory.md R65: a listed register offset is one of the nineteen of 10_state.md R21, and an
access to any other address that lies in no window is refused and has no effect. -/
def Obligations.UnmappedAccessIsRefused : Prop :=
  ∀ (s : State) (a v : Word), Config.legalNMax s.nMax = true →
    a.toNat ∉ [0x00, 0x04, 0x08, 0x0C, 0x10, 0x14, 0x20, 0x24, 0x28, 0x2C, 0x30, 0x34, 0x38, 0x40,
      0x44, 0x48, 0x4C, 0x50, 0x54] →
    ¬ (0x1000 ≤ a.toNat ∧ a.toNat < 0x1000 + 32) →
    ¬ (0x01000000 ≤ a.toNat ∧ a.toNat < 0x01000000 + 8 * s.nMax) →
    ¬ (0x02000000 ≤ a.toNat ∧ a.toNat < 0x02000000 + s.nMax) →
    ¬ (0x03000000 ≤ a.toNat ∧ a.toNat < 0x03000000 + s.nMax) →
    ¬ (0x04000000 ≤ a.toNat ∧ a.toNat < 0x04000000 + (32 + s.nMax)) →
    s.memRead a = (.error, 0) ∧ s.memWrite a v = (.error, s)

/-- 20_memory.md R66: a write to a read-only register, or to HDR, PAY or FRAME, is refused and has
no effect. -/
def Obligations.ReadOnlyWriteIsRefused : Prop :=
  ∀ (s : State) (a v : Word), Config.legalNMax s.nMax = true →
    (a.toNat ∈ [0x08, 0x0C, 0x14, 0x40, 0x44, 0x48, 0x4C] ∨
      (0x1000 ≤ a.toNat ∧ a.toNat < 0x1000 + 32) ∨
      (0x03000000 ≤ a.toNat ∧ a.toNat < 0x03000000 + s.nMax) ∨
      (0x04000000 ≤ a.toNat ∧ a.toNat < 0x04000000 + (32 + s.nMax))) →
    s.memWrite a v = (.error, s)

/-- 20_memory.md R67: while BUSY = 1 every write is refused and has no effect, every buffer read is
refused, and a register read answers what it would answer otherwise. -/
def Obligations.BusyAccessRules : Prop :=
  ∀ (s : State) (w : Word), s.pending = some w →
    (∀ a v, s.memWrite a v = (.error, s)) ∧
    (∀ a, 0x100 ≤ a.toNat → s.memRead a = (.error, 0)) ∧
    (∀ a, a.toNat < 0x100 → a.toNat ≠ 0x04 →
      s.memRead a = ({ s with pending := none } : State).memRead a)

/-- 10_state.md R23: a write to CMD while nothing is pending starts the command, whatever the word,
and clears DONE; while a command is pending it is refused; a read returns 0. 10_state.md R51 and
60_exceptions.md R262: after the accepted write `irq` is high only for an error that ERR_IE
enables. -/
def Obligations.CommandWriteStartsCommand : Prop :=
  ∀ (s : State) (w : Word),
    (s.pending = none → ∃ t, s.memWrite 0x00000000 w = (.okay, t) ∧
      t = { s with pending := some w, regs := { s.regs with done := false } } ∧
      t.irq = (s.regs.err && s.regs.irqEn.getLsbD 1)) ∧
    (s.pending ≠ none → s.memWrite 0x00000000 w = (.error, s)) ∧
    s.memRead 0x00000000 = (.okay, 0)

/-- 10_state.md R24: what a read of STATUS returns, bit by bit. -/
def Obligations.StatusReadsItsFlags : Prop :=
  ∀ s : State, ∃ v, s.memRead 0x00000004 = (.okay, v) ∧ v.getLsbD 0 = s.regs.cfgValid ∧
    (v.getLsbD 1 = true ↔ s.pending ≠ none) ∧ v.getLsbD 2 = s.regs.done ∧
    v.getLsbD 3 = s.regs.err ∧ v.getLsbD 4 = s.regs.errMulti ∧
    ∀ i, 5 ≤ i → v.getLsbD i = false

/-- 10_state.md R24 and 60_exceptions.md R258: what an accepted write to STATUS clears; no other
register changes. 10_state.md R51 and 60_exceptions.md R262: the `irq` after it, lowered by clearing
its cause. -/
def Obligations.StatusWriteClearsFlags : Prop :=
  ∀ (s : State) (v : Word), s.pending = none → ∃ t, s.memWrite 0x00000004 v = (.okay, t) ∧
    t = { s with regs := { s.regs with
      done := s.regs.done && !v.getLsbD 2
      err := s.regs.err && !v.getLsbD 3
      errMulti := s.regs.errMulti && !(v.getLsbD 3 || v.getLsbD 4)
      errCode := if v.getLsbD 3 then 0x00 else s.regs.errCode } } ∧
    t.irq = (s.regs.done && !v.getLsbD 2 && s.regs.irqEn.getLsbD 0 ||
      s.regs.err && !v.getLsbD 3 && s.regs.irqEn.getLsbD 1)

/-- 10_state.md R29 to R35, R43: an accepted write to a CFG_* register stores the register's bits
and clears CFG_VALID, and changes no other register. -/
def Obligations.ConfigWriteClearsValid : Prop :=
  ∀ (s : State) (v : Word), s.pending = none →
    s.memWrite 0x00000020 v =
      (.okay, { s with regs := { s.regs with cfgValid := false, cfgSpf := v } }) ∧
    s.memWrite 0x00000024 v =
      (.okay, { s with regs := { s.regs with cfgValid := false, cfgBps := v.extractLsb' 0 8 } }) ∧
    s.memWrite 0x00000028 v =
      (.okay, { s with regs := { s.regs with cfgValid := false, cfgChannels := v } }) ∧
    s.memWrite 0x0000002C v =
      (.okay, { s with regs := { s.regs with
        cfgValid := false, cfgThreadId := v.extractLsb' 0 16 } }) ∧
    s.memWrite 0x00000030 v =
      (.okay, { s with regs := { s.regs with
        cfgValid := false, cfgStationId := v.extractLsb' 0 16 } }) ∧
    s.memWrite 0x00000034 v =
      (.okay, { s with regs := { s.regs with
        cfgValid := false, cfgVdifVersion := v.extractLsb' 0 8 } }) ∧
    s.memWrite 0x00000038 v =
      (.okay, { s with regs := { s.regs with cfgValid := false, cfgMode := v.extractLsb' 0 4 } })

/-- 10_state.md R27, R40, R41: an accepted write to IRQ_EN, EPOCH_SECONDS or FRAME_NUMBER only
stores, and reads back. -/
def Obligations.PlainWriteOnlyStores : Prop :=
  ∀ (s : State) (v : Word), s.pending = none →
    (∃ t, s.memWrite 0x00000010 v = (.okay, t) ∧
      t = { s with regs := { s.regs with irqEn := v.extractLsb' 0 2 } } ∧
      t.memRead 0x00000010 = (.okay, v &&& 3)) ∧
    (∃ t, s.memWrite 0x00000050 v = (.okay, t) ∧
      t = { s with regs := { s.regs with epochSeconds := v } } ∧
      t.memRead 0x00000050 = (.okay, v)) ∧
    (∃ t, s.memWrite 0x00000054 v = (.okay, t) ∧
      t = { s with regs := { s.regs with frameNumber := v } } ∧
      t.memRead 0x00000054 = (.okay, v))

/-- 20_memory.md R63, R68: a word written to SAMP or CODE lands least significant byte first and is
read back whole; no other cell of any buffer and no register changes. -/
def Obligations.BufferWordReadsBack : Prop :=
  ∀ (s : State) (b : BufName) (o : Nat) (v : Word), Config.legalNMax s.nMax = true →
    s.pending = none → o % 4 = 0 →
    (b = .samp ∧ o < 8 * s.nMax) ∨ (b = .code ∧ o < s.nMax) →
    ∃ t, s.memWrite (BitVec.ofNat 32 (b.base + o)) v = (.okay, t) ∧
      t.memRead (BitVec.ofNat 32 (b.base + o)) = (.okay, v) ∧
      (∀ j, j < 4 → (t.buf b).read (o + j) = some (v.extractLsb' (8 * j) 8)) ∧
      (∀ a, a < o ∨ o + 4 ≤ a → (t.buf b).read a = (s.buf b).read a) ∧
      SameBuffersBut b s t ∧ SameEnvironment s t ∧ t.regs = s.regs ∧ t.pending = none ∧
      t.draws = s.draws

/-- 20_memory.md R62, R68 and 10_state.md R49: a host read of any of the five buffers while nothing is
pending returns the four cells, the lowest offset least significant: a written cell as its byte, a
cell never written as a draw, each of its own. Which draw a place takes is the model's choice (log
entries 3 and 8); the statement holds whatever the draws are. -/
def Obligations.UnwrittenCellsReadAsDraws : Prop :=
  ∀ (s : State) (b : BufName) (o : Nat), Config.legalNMax s.nMax = true → s.pending = none →
    o % 4 = 0 → o + 4 ≤ b.size s.nMax →
    ∃ v, s.memRead (BitVec.ofNat 32 (b.base + o)) = (.okay, v) ∧
      ∀ j, j < 4 → v.extractLsb' (8 * j) 8 =
        match (s.buf b).read (o + j) with
        | some c => c
        | none => Config.freeByte (s.draws + j)

/-- 30_encoding.md R121 and 20_memory.md R76: a host's `wait` reads STATUS, and ends with the read
that returns BUSY = 0. The rest is the model's choice: that `wait` is one operation, repeated (log
entry 9), the step without a listed turn (log entry 1), the reply kept (log entry 2), and the four
draw places each read passes over (log entry 8). -/
def Obligations.WaitEndsWhenNotBusy : Prop :=
  ∀ (s : State) (ts : List Turn) (p : List HostOp), s.HostMoves ts →
    s.program = .wait :: p →
    ∃ t v, step s = .next t ∧ s.memRead 0x00000004 = (.okay, v) ∧
      t = { s with
        turns := ts, draws := s.draws + 4
        replies := .read 0x00000004 .okay v :: s.replies
        program := if s.pending = none then p else .wait :: p }

/-- 10_state.md R21, R23, R25 to R41 and 20_memory.md R62, R67: what a read of every register but
STATUS returns, a command pending or not: the bits the register holds, its reserved bits 0. -/
def Obligations.RegistersReadTheirValues : Prop :=
  ∀ s : State,
    s.memRead 0x00000000 = (.okay, 0) ∧
    s.memRead 0x00000008 = (.okay, 0#24 ++ s.regs.errCode) ∧
    s.memRead 0x0000000C = (.okay, 0#23 ++ s.regs.cfgErr) ∧
    s.memRead 0x00000010 = (.okay, 0#30 ++ s.regs.irqEn) ∧
    s.memRead 0x00000014 = (.okay, s.regs.nMaxReg) ∧
    s.memRead 0x00000020 = (.okay, s.regs.cfgSpf) ∧
    s.memRead 0x00000024 = (.okay, 0#24 ++ s.regs.cfgBps) ∧
    s.memRead 0x00000028 = (.okay, s.regs.cfgChannels) ∧
    s.memRead 0x0000002C = (.okay, 0#16 ++ s.regs.cfgThreadId) ∧
    s.memRead 0x00000030 = (.okay, 0#16 ++ s.regs.cfgStationId) ∧
    s.memRead 0x00000034 = (.okay, 0#24 ++ s.regs.cfgVdifVersion) ∧
    s.memRead 0x00000038 = (.okay, 0#28 ++ s.regs.cfgMode) ∧
    s.memRead 0x00000040 = (.okay, s.regs.payloadBytes) ∧
    s.memRead 0x00000044 = (.okay, s.regs.frameLengthUnits) ∧
    s.memRead 0x00000048 = (.okay, s.regs.frameBytes) ∧
    s.memRead 0x0000004C = (.okay, 0#27 ++ s.regs.log2Channels) ∧
    s.memRead 0x00000050 = (.okay, s.regs.epochSeconds) ∧
    s.memRead 0x00000054 = (.okay, s.regs.frameNumber)
end

