-- ==== Sys2Proof/Laws/State.lean ====
section
/-! SUPPORT. One lemma per field per update of the state, true by rfl, so that no later proof
unfolds a record update. -/

namespace Sys2Proof.Machine

variable (s : State)


/-! ### drew -/

@[simp] theorem State.drew_regs (n : Nat) : (s.drew n).regs = s.regs := rfl
@[simp] theorem State.drew_pending (n : Nat) : (s.drew n).pending = s.pending := rfl
@[simp] theorem State.drew_hdr (n : Nat) : (s.drew n).hdr = s.hdr := rfl
@[simp] theorem State.drew_samp (n : Nat) : (s.drew n).samp = s.samp := rfl
@[simp] theorem State.drew_code (n : Nat) : (s.drew n).code = s.code := rfl
@[simp] theorem State.drew_pay (n : Nat) : (s.drew n).pay = s.pay := rfl
@[simp] theorem State.drew_frame (n : Nat) : (s.drew n).frame = s.frame := rfl
@[simp] theorem State.drew_draws (n : Nat) : (s.drew n).draws = s.draws + n := rfl
@[simp] theorem State.drew_turns (n : Nat) : (s.drew n).turns = s.turns := rfl
@[simp] theorem State.drew_program (n : Nat) : (s.drew n).program = s.program := rfl
@[simp] theorem State.drew_replies (n : Nat) : (s.drew n).replies = s.replies := rfl

/-! ### complete -/

@[simp] theorem State.complete_regs : (s.complete).regs = { s.regs with done := true } := rfl
@[simp] theorem State.complete_pending : (s.complete).pending = none := rfl
@[simp] theorem State.complete_hdr : (s.complete).hdr = s.hdr := rfl
@[simp] theorem State.complete_samp : (s.complete).samp = s.samp := rfl
@[simp] theorem State.complete_code : (s.complete).code = s.code := rfl
@[simp] theorem State.complete_pay : (s.complete).pay = s.pay := rfl
@[simp] theorem State.complete_frame : (s.complete).frame = s.frame := rfl
@[simp] theorem State.complete_draws : (s.complete).draws = s.draws := rfl
@[simp] theorem State.complete_turns : (s.complete).turns = s.turns := rfl
@[simp] theorem State.complete_program : (s.complete).program = s.program := rfl
@[simp] theorem State.complete_replies : (s.complete).replies = s.replies := rfl

/-! ### fail -/

@[simp] theorem State.fail_regs (e : CmdError) :
    (s.fail e).regs = { s.regs.recordError e with done := true } := rfl
@[simp] theorem State.fail_pending (e : CmdError) : (s.fail e).pending = none := rfl
@[simp] theorem State.fail_hdr (e : CmdError) : (s.fail e).hdr = s.hdr := rfl
@[simp] theorem State.fail_samp (e : CmdError) : (s.fail e).samp = s.samp := rfl
@[simp] theorem State.fail_code (e : CmdError) : (s.fail e).code = s.code := rfl
@[simp] theorem State.fail_pay (e : CmdError) : (s.fail e).pay = s.pay := rfl
@[simp] theorem State.fail_frame (e : CmdError) : (s.fail e).frame = s.frame := rfl
@[simp] theorem State.fail_draws (e : CmdError) : (s.fail e).draws = s.draws := rfl
@[simp] theorem State.fail_turns (e : CmdError) : (s.fail e).turns = s.turns := rfl
@[simp] theorem State.fail_program (e : CmdError) : (s.fail e).program = s.program := rfl
@[simp] theorem State.fail_replies (e : CmdError) : (s.fail e).replies = s.replies := rfl

/-! ### noteReply -/

@[simp] theorem State.noteReply_regs (r : Reply) : (s.noteReply r).regs = s.regs := rfl
@[simp] theorem State.noteReply_pending (r : Reply) : (s.noteReply r).pending = s.pending := rfl
@[simp] theorem State.noteReply_hdr (r : Reply) : (s.noteReply r).hdr = s.hdr := rfl
@[simp] theorem State.noteReply_samp (r : Reply) : (s.noteReply r).samp = s.samp := rfl
@[simp] theorem State.noteReply_code (r : Reply) : (s.noteReply r).code = s.code := rfl
@[simp] theorem State.noteReply_pay (r : Reply) : (s.noteReply r).pay = s.pay := rfl
@[simp] theorem State.noteReply_frame (r : Reply) : (s.noteReply r).frame = s.frame := rfl
@[simp] theorem State.noteReply_draws (r : Reply) : (s.noteReply r).draws = s.draws := rfl
@[simp] theorem State.noteReply_turns (r : Reply) : (s.noteReply r).turns = s.turns := rfl
@[simp] theorem State.noteReply_program (r : Reply) : (s.noteReply r).program = s.program := rfl
@[simp] theorem State.noteReply_replies (r : Reply) :
    (s.noteReply r).replies = r :: s.replies := rfl

/-! ### acceptCommand -/

@[simp] theorem State.acceptCommand_regs (w : Word) :
    (s.acceptCommand w).regs = { s.regs with done := false } := rfl
@[simp] theorem State.acceptCommand_pending (w : Word) :
    (s.acceptCommand w).pending = some w := rfl
@[simp] theorem State.acceptCommand_hdr (w : Word) : (s.acceptCommand w).hdr = s.hdr := rfl
@[simp] theorem State.acceptCommand_samp (w : Word) : (s.acceptCommand w).samp = s.samp := rfl
@[simp] theorem State.acceptCommand_code (w : Word) : (s.acceptCommand w).code = s.code := rfl
@[simp] theorem State.acceptCommand_pay (w : Word) : (s.acceptCommand w).pay = s.pay := rfl
@[simp] theorem State.acceptCommand_frame (w : Word) : (s.acceptCommand w).frame = s.frame := rfl
@[simp] theorem State.acceptCommand_draws (w : Word) : (s.acceptCommand w).draws = s.draws := rfl
@[simp] theorem State.acceptCommand_turns (w : Word) : (s.acceptCommand w).turns = s.turns := rfl
@[simp] theorem State.acceptCommand_program (w : Word) :
    (s.acceptCommand w).program = s.program := rfl
@[simp] theorem State.acceptCommand_replies (w : Word) :
    (s.acceptCommand w).replies = s.replies := rfl

/-! ### hardReset -/

@[simp] theorem State.hardReset_regs : (s.hardReset).regs = Regs.reset s.regs.nMaxReg := rfl
@[simp] theorem State.hardReset_pending : (s.hardReset).pending = none := rfl
@[simp] theorem State.hardReset_hdr : (s.hardReset).hdr = [] := rfl
@[simp] theorem State.hardReset_samp : (s.hardReset).samp = [] := rfl
@[simp] theorem State.hardReset_code : (s.hardReset).code = [] := rfl
@[simp] theorem State.hardReset_pay : (s.hardReset).pay = [] := rfl
@[simp] theorem State.hardReset_frame : (s.hardReset).frame = [] := rfl
@[simp] theorem State.hardReset_draws : (s.hardReset).draws = s.draws := rfl
@[simp] theorem State.hardReset_turns : (s.hardReset).turns = s.turns := rfl
@[simp] theorem State.hardReset_program : (s.hardReset).program = s.program := rfl
@[simp] theorem State.hardReset_replies : (s.hardReset).replies = s.replies := rfl

/-! ### setRegs -/

@[simp] theorem State.setRegs_regs (r : Regs) : (s.setRegs r).regs = r := rfl
@[simp] theorem State.setRegs_pending (r : Regs) : (s.setRegs r).pending = s.pending := rfl
@[simp] theorem State.setRegs_hdr (r : Regs) : (s.setRegs r).hdr = s.hdr := rfl
@[simp] theorem State.setRegs_samp (r : Regs) : (s.setRegs r).samp = s.samp := rfl
@[simp] theorem State.setRegs_code (r : Regs) : (s.setRegs r).code = s.code := rfl
@[simp] theorem State.setRegs_pay (r : Regs) : (s.setRegs r).pay = s.pay := rfl
@[simp] theorem State.setRegs_frame (r : Regs) : (s.setRegs r).frame = s.frame := rfl
@[simp] theorem State.setRegs_draws (r : Regs) : (s.setRegs r).draws = s.draws := rfl
@[simp] theorem State.setRegs_turns (r : Regs) : (s.setRegs r).turns = s.turns := rfl
@[simp] theorem State.setRegs_program (r : Regs) : (s.setRegs r).program = s.program := rfl
@[simp] theorem State.setRegs_replies (r : Regs) : (s.setRegs r).replies = s.replies := rfl
@[simp] theorem State.buf_setRegs (r : Regs) (b : BufName) : (s.setRegs r).buf b = s.buf b := by cases b <;> rfl

/-! ### setBuf and writeBytes -/

@[simp] theorem State.setBuf_regs (b : BufName) (m : Memory) :
    (s.setBuf b m).regs = s.regs := by cases b <;> rfl
@[simp] theorem State.writeBytes_regs (b : BufName) (o : Nat) (bs : List Byte) :
    (s.writeBytes b o bs).regs = s.regs := s.setBuf_regs _ _
@[simp] theorem State.setBuf_pending (b : BufName) (m : Memory) :
    (s.setBuf b m).pending = s.pending := by cases b <;> rfl
@[simp] theorem State.writeBytes_pending (b : BufName) (o : Nat) (bs : List Byte) :
    (s.writeBytes b o bs).pending = s.pending := s.setBuf_pending _ _
@[simp] theorem State.setBuf_draws (b : BufName) (m : Memory) :
    (s.setBuf b m).draws = s.draws := by cases b <;> rfl
@[simp] theorem State.writeBytes_draws (b : BufName) (o : Nat) (bs : List Byte) :
    (s.writeBytes b o bs).draws = s.draws := s.setBuf_draws _ _
@[simp] theorem State.setBuf_turns (b : BufName) (m : Memory) :
    (s.setBuf b m).turns = s.turns := by cases b <;> rfl
@[simp] theorem State.writeBytes_turns (b : BufName) (o : Nat) (bs : List Byte) :
    (s.writeBytes b o bs).turns = s.turns := s.setBuf_turns _ _
@[simp] theorem State.setBuf_program (b : BufName) (m : Memory) :
    (s.setBuf b m).program = s.program := by cases b <;> rfl
@[simp] theorem State.writeBytes_program (b : BufName) (o : Nat) (bs : List Byte) :
    (s.writeBytes b o bs).program = s.program := s.setBuf_program _ _
@[simp] theorem State.setBuf_replies (b : BufName) (m : Memory) :
    (s.setBuf b m).replies = s.replies := by cases b <;> rfl
@[simp] theorem State.writeBytes_replies (b : BufName) (o : Nat) (bs : List Byte) :
    (s.writeBytes b o bs).replies = s.replies := s.setBuf_replies _ _

@[simp] theorem State.buf_setBuf_self (b : BufName) (m : Memory) : (s.setBuf b m).buf b = m := by
  cases b <;> rfl

@[simp] theorem State.buf_setBuf_ne (m : Memory) {b c : BufName} (h : c ≠ b) :
    (s.setBuf b m).buf c = s.buf c := by
  cases b <;> cases c <;> first | rfl | exact absurd rfl h

@[simp] theorem State.buf_writeBytes_self (b : BufName) (o : Nat) (bs : List Byte) :
    (s.writeBytes b o bs).buf b = (s.buf b).writeRange o bs :=
  s.buf_setBuf_self b _

@[simp] theorem State.buf_writeBytes_ne (o : Nat) (bs : List Byte) {b c : BufName} (h : c ≠ b) :
    (s.writeBytes b o bs).buf c = s.buf c :=
  s.buf_setBuf_ne _ h

/-! ### The buffers of the other updates -/

@[simp] theorem State.buf_drew (n : Nat) (b : BufName) :
    (s.drew n).buf b = s.buf b := by cases b <;> rfl
@[simp] theorem State.buf_complete (b : BufName) :
    (s.complete).buf b = s.buf b := by cases b <;> rfl
@[simp] theorem State.buf_fail (e : CmdError) (b : BufName) :
    (s.fail e).buf b = s.buf b := by cases b <;> rfl
@[simp] theorem State.buf_noteReply (r : Reply) (b : BufName) :
    (s.noteReply r).buf b = s.buf b := by cases b <;> rfl
@[simp] theorem State.buf_acceptCommand (w : Word) (b : BufName) :
    (s.acceptCommand w).buf b = s.buf b := by cases b <;> rfl
@[simp] theorem State.buf_hardReset (b : BufName) : s.hardReset.buf b = [] := by cases b <;> rfl
@[simp] theorem State.buf_withProgram (p : List HostOp) (b : BufName) :
    ({ s with program := p } : State).buf b = s.buf b := by cases b <;> rfl
@[simp] theorem State.buf_withTurns (ts : List Turn) (b : BufName) :
    ({ s with turns := ts } : State).buf b = s.buf b := by cases b <;> rfl
@[simp] theorem State.buf_reset (b : BufName) : State.reset.buf b = [] := by cases b <;> rfl

/-! ### Registers -/

/-- What the failure path leaves of the registers other than STATUS and ERR_CODE. -/
theorem Regs.recordError_cases (r : Regs) (e : CmdError) :
    (r.err = true ∧ r.recordError e = { r with errMulti := true }) ∨
      (r.err = false ∧ r.recordError e = { r with err := true, errCode := e.code }) := by
  cases h : r.err <;> simp [Regs.recordError, h]

@[simp] theorem Regs.recordError_err (r : Regs) (e : CmdError) : (r.recordError e).err = true := by
  cases h : r.err <;> simp [Regs.recordError, h]

@[simp] theorem Regs.recordError_cfgValid (r : Regs) (e : CmdError) :
    (r.recordError e).cfgValid = r.cfgValid := by
  cases h : r.err <;> simp [Regs.recordError, h]
@[simp] theorem Regs.recordError_cfgErr (r : Regs) (e : CmdError) :
    (r.recordError e).cfgErr = r.cfgErr := by
  cases h : r.err <;> simp [Regs.recordError, h]
@[simp] theorem Regs.recordError_irqEn (r : Regs) (e : CmdError) :
    (r.recordError e).irqEn = r.irqEn := by
  cases h : r.err <;> simp [Regs.recordError, h]
@[simp] theorem Regs.recordError_nMaxReg (r : Regs) (e : CmdError) :
    (r.recordError e).nMaxReg = r.nMaxReg := by
  cases h : r.err <;> simp [Regs.recordError, h]
@[simp] theorem Regs.recordError_cfgSpf (r : Regs) (e : CmdError) :
    (r.recordError e).cfgSpf = r.cfgSpf := by
  cases h : r.err <;> simp [Regs.recordError, h]
@[simp] theorem Regs.recordError_cfgBps (r : Regs) (e : CmdError) :
    (r.recordError e).cfgBps = r.cfgBps := by
  cases h : r.err <;> simp [Regs.recordError, h]
@[simp] theorem Regs.recordError_cfgChannels (r : Regs) (e : CmdError) :
    (r.recordError e).cfgChannels = r.cfgChannels := by
  cases h : r.err <;> simp [Regs.recordError, h]
@[simp] theorem Regs.recordError_cfgThreadId (r : Regs) (e : CmdError) :
    (r.recordError e).cfgThreadId = r.cfgThreadId := by
  cases h : r.err <;> simp [Regs.recordError, h]
@[simp] theorem Regs.recordError_cfgStationId (r : Regs) (e : CmdError) :
    (r.recordError e).cfgStationId = r.cfgStationId := by
  cases h : r.err <;> simp [Regs.recordError, h]
@[simp] theorem Regs.recordError_cfgVdifVersion (r : Regs) (e : CmdError) :
    (r.recordError e).cfgVdifVersion = r.cfgVdifVersion := by
  cases h : r.err <;> simp [Regs.recordError, h]
@[simp] theorem Regs.recordError_cfgMode (r : Regs) (e : CmdError) :
    (r.recordError e).cfgMode = r.cfgMode := by
  cases h : r.err <;> simp [Regs.recordError, h]
@[simp] theorem Regs.recordError_payloadBytes (r : Regs) (e : CmdError) :
    (r.recordError e).payloadBytes = r.payloadBytes := by
  cases h : r.err <;> simp [Regs.recordError, h]
@[simp] theorem Regs.recordError_frameLengthUnits (r : Regs) (e : CmdError) :
    (r.recordError e).frameLengthUnits = r.frameLengthUnits := by
  cases h : r.err <;> simp [Regs.recordError, h]
@[simp] theorem Regs.recordError_frameBytes (r : Regs) (e : CmdError) :
    (r.recordError e).frameBytes = r.frameBytes := by
  cases h : r.err <;> simp [Regs.recordError, h]
@[simp] theorem Regs.recordError_log2Channels (r : Regs) (e : CmdError) :
    (r.recordError e).log2Channels = r.log2Channels := by
  cases h : r.err <;> simp [Regs.recordError, h]
@[simp] theorem Regs.recordError_epochSeconds (r : Regs) (e : CmdError) :
    (r.recordError e).epochSeconds = r.epochSeconds := by
  cases h : r.err <;> simp [Regs.recordError, h]
@[simp] theorem Regs.recordError_frameNumber (r : Regs) (e : CmdError) :
    (r.recordError e).frameNumber = r.frameNumber := by
  cases h : r.err <;> simp [Regs.recordError, h]

@[simp] theorem State.nMax_setRegs_reset : (Regs.reset s.regs.nMaxReg).nMaxReg = s.regs.nMaxReg := rfl

end Sys2Proof.Machine
end

