-- ==== Sys2Proof/Laws/Memory.lean ====
section
/-! SUPPORT. The laws of buffer cells: what a write leaves readable, and that every memory
operation keeps the canonical form. -/

namespace Sys2Proof.Machine

@[simp] theorem Memory.read_nil (o : Nat) : Memory.read [] o = none := rfl

theorem Memory.read_cons (c : Host.Cell) (m : Memory) (o : Nat) :
    Memory.read (c :: m) o = if c.1 = o then some c.2 else Memory.read m o := rfl

theorem Memory.read_append (m n : Memory) (o : Nat) :
    Memory.read (m ++ n) o = (Memory.read m o).or (Memory.read n o) := by
  induction m with
  | nil => simp
  | cons c m ih =>
    rw [List.cons_append, Memory.read_cons, Memory.read_cons]
    by_cases h : c.1 = o <;> simp [h, ih]

theorem Memory.read_filter (p : Nat → Bool) (m : Memory) (o : Nat) :
    Memory.read (m.filter fun c => p c.1) o = if p o then Memory.read m o else none := by
  induction m with
  | nil => simp
  | cons c m ih =>
    by_cases hc : p c.1 = true
    · rw [List.filter_cons_of_pos (by simpa using hc), Memory.read_cons, Memory.read_cons, ih]
      by_cases h : c.1 = o
      · subst h; simp [hc]
      · simp [h]
    · rw [List.filter_cons_of_neg (by simpa using hc), ih, Memory.read_cons]
      by_cases h : c.1 = o
      · subst h; simp [hc]
      · simp [h]

theorem read_cellsFrom (bs : List Byte) (o a : Nat) :
    Memory.read (cellsFrom o bs) a = if o ≤ a then bs[a - o]? else none := by
  induction bs generalizing o with
  | nil => simp [cellsFrom]
  | cons b bs ih =>
    rw [cellsFrom, Memory.read_cons, ih]
    by_cases h : o = a
    · subst h; simp
    · by_cases hlt : o < a
      · have hsub : a - o = (a - (o + 1)) + 1 := by omega
        simp [h, Nat.le_of_lt hlt, Nat.succ_le_of_lt hlt, hsub]
      · have h1 : ¬ o ≤ a := by omega
        have h2 : ¬ o + 1 ≤ a := by omega
        simp [h, h1, h2]

/-- Read after write: inside the written range the new bytes, outside it the old cells. -/
theorem Memory.read_writeRange (m : Memory) (o a : Nat) (bs : List Byte) :
    (m.writeRange o bs).read a =
      if o ≤ a ∧ a < o + bs.length then bs[a - o]? else m.read a := by
  have hlow := Memory.read_filter (fun k => decide (k < o)) m a
  have hhigh := Memory.read_filter (fun k => decide (o + bs.length ≤ k)) m a
  rw [Memory.writeRange, Memory.read_append, Memory.read_append, hlow, hhigh, read_cellsFrom]
  by_cases h1 : a < o
  · have : ¬ o ≤ a := by omega
    have h3 : ¬ o + bs.length ≤ a := by omega
    simp [h1, this, h3]
  · have h2 : o ≤ a := by omega
    by_cases h3 : a < o + bs.length
    · have h4 : a - o < bs.length := by omega
      simp [h1, h2, h3, List.getElem?_eq_getElem h4]
    · have h4 : bs.length ≤ a - o := by omega
      have h5 : o + bs.length ≤ a := by omega
      simp [h1, h2, h3, h5, List.getElem?_eq_none h4]

/-- A write leaves every cell outside its range alone. -/
theorem Memory.read_writeRange_outside (m : Memory) (o a : Nat) (bs : List Byte)
    (h : a < o ∨ o + bs.length ≤ a) : (m.writeRange o bs).read a = m.read a := by
  rw [Memory.read_writeRange, if_neg (by omega)]

/-- A written cell reads the byte written. -/
theorem Memory.read_writeRange_inside (m : Memory) (o i : Nat) (bs : List Byte)
    (h : i < bs.length) : (m.writeRange o bs).read (o + i) = some bs[i] := by
  rw [Memory.read_writeRange, if_pos (by omega), Nat.add_sub_cancel_left,
    List.getElem?_eq_getElem h]

theorem mem_cellsFrom {c : Host.Cell} {o : Nat} {bs : List Byte} (h : c ∈ cellsFrom o bs) :
    o ≤ c.1 ∧ c.1 < o + bs.length := by
  induction bs generalizing o with
  | nil => simp [cellsFrom] at h
  | cons b bs ih =>
    rcases List.mem_cons.mp (by simpa [cellsFrom] using h) with rfl | h
    · simp
    · have := ih h; simp only [List.length_cons]; omega

theorem cellsFrom_wf (o : Nat) (bs : List Byte) : Memory.wf (cellsFrom o bs) := by
  induction bs generalizing o with
  | nil => exact List.Pairwise.nil
  | cons b bs ih => exact List.Pairwise.cons (fun c hc => by have := mem_cellsFrom hc; simp; omega) (ih _)

/-- Every write keeps the canonical form. -/
theorem Memory.wf_writeRange {m : Memory} (h : m.wf) (o : Nat) (bs : List Byte) :
    (m.writeRange o bs).wf := by
  refine List.pairwise_append.mpr ⟨h.filter _, List.pairwise_append.mpr
    ⟨cellsFrom_wf o bs, h.filter _, ?_⟩, ?_⟩
  · intro c hc d hd
    have hc := mem_cellsFrom hc
    have hd := (List.mem_filter.mp hd).2
    simp only [decide_eq_true_eq] at hd
    omega
  · intro c hc d hd
    have hc := (List.mem_filter.mp hc).2
    simp only [decide_eq_true_eq] at hc
    rcases List.mem_append.mp hd with hd | hd
    · have := mem_cellsFrom hd; omega
    · have hd := (List.mem_filter.mp hd).2
      simp only [decide_eq_true_eq] at hd
      omega

/-- A write inside the buffer keeps every cell inside it. -/
theorem Memory.within_writeRange {m : Memory} {size : Nat} (h : m.within size) (o : Nat)
    (bs : List Byte) (hb : o + bs.length ≤ size) : (m.writeRange o bs).within size := by
  intro c hc
  rcases List.mem_append.mp hc with hc | hc
  · exact h c (List.mem_filter.mp hc).1
  · rcases List.mem_append.mp hc with hc | hc
    · have := mem_cellsFrom hc; omega
    · exact h c (List.mem_filter.mp hc).1

/-- Writing the bytes a canonical memory already holds changes nothing that can be read; two
canonical memories that read the same are the same data. -/
theorem Memory.ext_of_wf {m n : Memory} (hm : m.wf) (hn : n.wf) (h : ∀ o, m.read o = n.read o) :
    m = n := by
  have none_of_lt : ∀ {k : Memory} {o : Nat}, (∀ c ∈ k, o < c.1) → k.read o = none := by
    intro k o hk
    induction k with
    | nil => rfl
    | cons c k ih =>
      have hc := hk c (by simp)
      rw [Memory.read_cons, if_neg (by omega), ih fun d hd => hk d (by simp [hd])]
  induction m generalizing n with
  | nil =>
    cases n with
    | nil => rfl
    | cons d n => simpa [Memory.read_cons] using h d.1
  | cons c m ih =>
    cases n with
    | nil => simpa [Memory.read_cons] using h c.1
    | cons d n =>
      have hm' := List.pairwise_cons.mp hm
      have hn' := List.pairwise_cons.mp hn
      have hcd : c.1 = d.1 := by
        by_contra hne
        rcases Nat.lt_or_gt_of_ne hne with hlt | hlt
        · have := h c.1
          rw [Memory.read_cons, if_pos rfl, none_of_lt (k := d :: n) (by
            intro e he
            rcases List.mem_cons.mp he with rfl | he
            · exact hlt
            · exact Nat.lt_trans hlt (hn'.1 e he))] at this
          cases this
        · have := h d.1
          rw [Memory.read_cons (c := d), if_pos rfl, none_of_lt (k := c :: m) (by
            intro e he
            rcases List.mem_cons.mp he with rfl | he
            · exact hlt
            · exact Nat.lt_trans hlt (hm'.1 e he))] at this
          cases this
      have hv : c.2 = d.2 := by
        have := h c.1
        rw [Memory.read_cons, Memory.read_cons, if_pos rfl, if_pos hcd.symm] at this
        exact Option.some.inj this
      have hce : c = d := Prod.ext hcd hv
      subst hce
      congr 1
      refine ih hm'.2 hn'.2 fun o => ?_
      by_cases ho : c.1 = o
      · subst ho
        rw [none_of_lt hm'.1, none_of_lt hn'.1]
      · have := h o
        rwa [Memory.read_cons, Memory.read_cons, if_neg ho, if_neg ho] at this

end Sys2Proof.Machine
end

