-- ==== Sys2Proof/Laws/Ops.lean ====
section
/-! SUPPORT. What each shared operation does, said once: reading cells, byte order, the
configuration gate, and the cases of each command's meaning. -/

namespace Sys2Proof.Machine

variable {s t : State}

/-! ### Reading cells -/

@[simp] theorem State.length_readBytes (s : State) (b : BufName) (o n d : Nat) :
    (s.readBytes b o n d).length = n := by simp [State.readBytes]

theorem State.getElem_readBytes (s : State) (b : BufName) (o n d i : Nat)
    (h : i < (s.readBytes b o n d).length) :
    (s.readBytes b o n d)[i] = s.readCell b (o + i) (d + i) := by simp [State.readBytes]

theorem State.getElem?_readBytes (s : State) (b : BufName) (o d : Nat) {n i : Nat} (h : i < n) :
    (s.readBytes b o n d)[i]? = some (s.readCell b (o + i) (d + i)) := by
  simp [State.readBytes, h]

/-- A written cell reads as its byte: no draw is taken. -/
theorem State.readCell_of_some {b : BufName} {o : Nat} {v : Byte} (d : Nat)
    (h : (s.buf b).read o = some v) : s.readCell b o d = v := by
  simp [State.readCell, h]

/-- A cell never written reads as the draw of its place. -/
theorem State.readCell_of_none {b : BufName} {o : Nat} (d : Nat)
    (h : (s.buf b).read o = none) : s.readCell b o d = Config.freeByte (s.draws + d) := by
  simp [State.readCell, h]

/-- What reading a cell depends on: the cell and the draw counter. -/
theorem State.readCell_congr {b : BufName} {o d : Nat} (h : (t.buf b).read o = (s.buf b).read o)
    (hd : t.draws = s.draws) : t.readCell b o d = s.readCell b o d := by
  simp [State.readCell, h, hd]

/-- Writing bytes makes each cell of the range read the byte written. -/
theorem State.read_writeBytes_inside (s : State) (b : BufName) (o i : Nat) (bs : List Byte)
    (h : i < bs.length) : ((s.writeBytes b o bs).buf b).read (o + i) = some bs[i] := by
  rw [State.buf_writeBytes_self, Memory.read_writeRange_inside _ _ _ _ h]

/-- Writing bytes leaves every cell outside the range, of every buffer, alone. -/
theorem State.read_writeBytes_outside (s : State) (b c : BufName) (o a : Nat) (bs : List Byte)
    (h : c = b → a < o ∨ o + bs.length ≤ a) :
    ((s.writeBytes b o bs).buf c).read a = (s.buf c).read a := by
  by_cases hc : c = b
  · subst hc
    rw [State.buf_writeBytes_self, Memory.read_writeRange_outside _ _ _ _ (h rfl)]
  · rw [State.buf_writeBytes_ne _ _ _ hc]

/-! ### Byte order -/

@[simp] theorem length_wordBytes (v : Word) : (wordBytes v).length = 4 := rfl

/-- A word's four bytes, put together again, are the word (20_memory.md R68). -/
theorem wordOfBytes_wordByte (v : Word) :
    wordOfBytes (wordByte v 0) (wordByte v 1) (wordByte v 2) (wordByte v 3) = v := by
  apply BitVec.eq_of_getLsbD_eq
  intro i hi
  simp only [wordOfBytes, wordByte, BitVec.getLsbD_or, BitVec.getLsbD_shiftLeft,
    BitVec.getLsbD_setWidth, BitVec.getLsbD_extractLsb']
  interval_cases i <;> simp

/-- The bytes of a word put together (20_memory.md R68). -/
theorem extractLsb'_wordOfBytes (b0 b1 b2 b3 : Byte) {j : Nat} (hj : j < 4) :
    (wordOfBytes b0 b1 b2 b3).extractLsb' (8 * j) 8 = [b0, b1, b2, b3].getD j 0 := by
  interval_cases j <;> apply BitVec.eq_of_getLsbD_eq <;> intro i hi <;>
    simp only [wordOfBytes, BitVec.getLsbD_or, BitVec.getLsbD_shiftLeft, BitVec.getLsbD_setWidth,
      BitVec.getLsbD_extractLsb'] <;>
    interval_cases i <;> simp

theorem sumOfBytes_lt (bs : List Byte) : sumOfBytes bs < 256 ^ bs.length := by
  induction bs with
  | nil => simp [sumOfBytes]
  | cons b bs ih =>
    have hb := b.isLt
    simp only [sumOfBytes, List.length_cons, Nat.pow_succ]
    omega

/-- Digit j in base 256 is byte j: the first byte is the least significant (30_encoding.md R110). -/
theorem sumOfBytes_div_mod (bs : List Byte) {j : Nat} (h : j < bs.length) :
    sumOfBytes bs / 256 ^ j % 256 = bs[j].toNat := by
  induction bs generalizing j with
  | nil => simp at h
  | cons b bs ih =>
    have hb := b.isLt
    cases j with
    | zero => simp [sumOfBytes]; omega
    | succ j =>
      have hd : (b.toNat + 256 * sumOfBytes bs) / 256 = sumOfBytes bs := by omega
      rw [sumOfBytes, Nat.pow_succ', ← Nat.div_div_eq_div_mul, hd]
      exact ih (by simpa using h)

/-! ### The configuration gate and the failure path -/

/-- Everything the gate can answer (45_control.md R234). -/
theorem whenConfigured_cases {body : State → Result} {r : Result}
    (h : whenConfigured s body = r) :
    (s.regs.cfgValid = true ∧ r = body s) ∨
      (s.regs.cfgValid = false ∧ r = .next (s.fail .notConfigured)) := by
  cases hv : s.regs.cfgValid <;> simp [whenConfigured, hv] at h <;> simp [← h]

theorem whenConfigured_of_valid {body : State → Result} (h : s.regs.cfgValid = true) :
    whenConfigured s body = body s := by simp [whenConfigured, h]

theorem whenConfigured_of_invalid {body : State → Result} (h : s.regs.cfgValid = false) :
    whenConfigured s body = .next (s.fail .notConfigured) := by simp [whenConfigured, h]

/-! ### The cases of each meaning -/

/-- Everything NOP does. -/
theorem execNop_cases (h : execNop s = .next t) : t = s.complete := by
  simpa [execNop] using h.symm

/-- Everything CFG_COMMIT does. -/
theorem execCfgCommit_cases (h : execCfgCommit s = .next t) :
    (s.regs.checkMask = 0 ∧ t = (s.setRegs s.regs.acceptConfig).complete) ∨
      (s.regs.checkMask ≠ 0 ∧
        t = (s.setRegs s.regs.rejectConfig).fail (primaryError s.regs.checkMask)) := by
  unfold execCfgCommit at h
  split at h
  · next hm => exact .inl ⟨hm, by simpa using h.symm⟩
  · next hm => exact .inr ⟨hm, by simpa using h.symm⟩

/-- Everything ENC_HDR does. -/
theorem execEncHdr_cases (h : execEncHdr s = .next t) :
    (s.regs.cfgValid = true ∧ t = s.writeHeader.complete) ∨
      (s.regs.cfgValid = false ∧ t = s.fail .notConfigured) := by
  rcases whenConfigured_cases h with ⟨hv, ht⟩ | ⟨hv, ht⟩
  · exact .inl ⟨hv, by simpa using ht⟩
  · exact .inr ⟨hv, by simpa using ht⟩

/-- Everything QUANTIZE does. -/
theorem execQuantize_cases (h : execQuantize s = .next t) :
    (∃ codes, s.regs.cfgValid = true ∧ s.quantizeFrame = some codes ∧
        t = (s.writeCodes codes).complete) ∨
      (s.regs.cfgValid = true ∧ s.quantizeFrame = none ∧ t = s.drewSamples.fail .nonfiniteSample) ∨
      (s.regs.cfgValid = false ∧ t = s.fail .notConfigured) := by
  rcases whenConfigured_cases h with ⟨hv, ht⟩ | ⟨hv, ht⟩
  · cases hq : s.quantizeFrame with
    | none => exact .inr (.inl ⟨hv, rfl, by simpa [hq] using ht⟩)
    | some codes => exact .inl ⟨codes, hv, rfl, by simpa [hq] using ht⟩
  · exact .inr (.inr ⟨hv, by simpa using ht⟩)

/-- Everything PACK does. -/
theorem execPack_cases (h : execPack s = .next t) :
    (s.regs.cfgValid = true ∧ t = s.writePayload.complete) ∨
      (s.regs.cfgValid = false ∧ t = s.fail .notConfigured) := by
  rcases whenConfigured_cases h with ⟨hv, ht⟩ | ⟨hv, ht⟩
  · exact .inl ⟨hv, by simpa using ht⟩
  · exact .inr ⟨hv, by simpa using ht⟩

/-- Everything ASSEMBLE does. -/
theorem execAssemble_cases (h : execAssemble s = .next t) :
    (s.regs.cfgValid = true ∧ t = s.writeFrame.complete) ∨
      (s.regs.cfgValid = false ∧ t = s.fail .notConfigured) := by
  rcases whenConfigured_cases h with ⟨hv, ht⟩ | ⟨hv, ht⟩
  · exact .inl ⟨hv, by simpa using ht⟩
  · exact .inr ⟨hv, by simpa using ht⟩

/-- Everything ENC_FRAME does. -/
theorem execEncFrame_cases (h : execEncFrame s = .next t) :
    (∃ codes, s.regs.cfgValid = true ∧ s.quantizeFrame = some codes ∧
        t = (s.writeCodes codes).writePayload.writeHeader.writeFrame.complete) ∨
      (s.regs.cfgValid = true ∧ s.quantizeFrame = none ∧ t = s.drewSamples.fail .nonfiniteSample) ∨
      (s.regs.cfgValid = false ∧ t = s.fail .notConfigured) := by
  rcases whenConfigured_cases h with ⟨hv, ht⟩ | ⟨hv, ht⟩
  · cases hq : s.quantizeFrame with
    | none => exact .inr (.inl ⟨hv, rfl, by simpa [hq] using ht⟩)
    | some codes => exact .inl ⟨codes, hv, rfl, by simpa [hq] using ht⟩
  · exact .inr (.inr ⟨hv, by simpa using ht⟩)

/-- Everything SOFT_RESET does. -/
theorem execSoftReset_cases (h : execSoftReset s = .next t) :
    t = (s.setRegs (Regs.reset s.regs.nMaxReg)).complete := by
  simpa [execSoftReset] using h.symm

/-- Everything an illegal command does. -/
theorem execIllegal_cases {w : Word} (h : execIllegal w s = .next t) : t = s.fail .illegalCmd := by
  simpa [execIllegal] using h.symm

end Sys2Proof.Machine
end

