-- ==== Sys2Proof/Laws/Commit.lean ====
section
/-! SUPPORT. The commit's mask bit by bit, and each check as the spec states it. -/

namespace Sys2Proof.Machine

theorem sumOfBits_testBit (l : List Bool) (i : Nat) :
    (sumOfBits l).testBit i = l.getD i false := by
  induction l generalizing i with
  | nil => simp [sumOfBits]
  | cons f fs ih =>
    cases i with
    | zero => cases f <;> simp [sumOfBits]
    | succ i =>
      have : sumOfBits (f :: fs) / 2 = sumOfBits fs := by
        cases f <;> simp [sumOfBits]; omega
      rw [Nat.testBit_succ, this, ih]
      simp

/-- Bit i of the mask is the i-th check's outcome (40_config.md R133). -/
theorem Regs.getLsbD_checkMask (r : Regs) {i : Nat} (h : i < 9) :
    r.checkMask.getLsbD i = r.checkFailures.getD i false := by
  simp only [Regs.checkMask, BitVec.getLsbD_ofNat, sumOfBits_testBit, h, decide_true,
    Bool.true_and]

theorem isPowerOfTwo_iff_le (c : Word) :
    isPowerOfTwo c = true ↔ ∃ k, k ≤ 31 ∧ c.toNat = 2 ^ k := by
  simp only [isPowerOfTwo, List.any_eq_true, List.mem_range, beq_iff_eq]
  constructor
  · rintro ⟨k, h, h'⟩; exact ⟨k, by omega, h'⟩
  · rintro ⟨k, h, h'⟩; exact ⟨k, by omega, h'⟩

/-- A 32-bit word is a power of two exactly when it is one of the 32 the check lists. -/
theorem isPowerOfTwo_iff (c : Word) : isPowerOfTwo c = true ↔ ∃ k, c.toNat = 2 ^ k := by
  rw [isPowerOfTwo_iff_le]
  constructor
  · rintro ⟨k, -, h⟩; exact ⟨k, h⟩
  · rintro ⟨k, h⟩
    refine ⟨k, ?_, h⟩
    by_contra hk
    have := c.isLt
    have : 2 ^ 32 ≤ 2 ^ k := Nat.pow_le_pow_right (by norm_num) (by omega)
    omega

/-- Each listed outcome is the check of 40_config.md R133 with the next number. -/
theorem Regs.checkFailures_iff (r : Regs) {j : Nat} (h : j < 9) :
    r.checkFailures.getD j false = true ↔ r.CheckFails (j + 1) := by
  have hl : (r.layout ≠ 0#2) ↔ r.cfgMode.toNat / 4 ≠ 0 := by
    rw [ne_eq, ← BitVec.toNat_inj]
    simp only [Regs.layout, BitVec.extractLsb'_toNat, Nat.shiftRight_eq_div_pow,
      BitVec.toNat_ofNat]
    have := r.cfgMode.isLt
    omega
  have hs : (r.cfgStationId.extractLsb' 8 8).toNat = r.cfgStationId.toNat / 256 := by
    simp only [BitVec.extractLsb'_toNat, Nat.shiftRight_eq_div_pow]
    have := r.cfgStationId.isLt
    omega
  have hs2 : (r.cfgStationId.extractLsb' 0 8).toNat = r.cfgStationId.toNat % 256 := by
    simp only [BitVec.extractLsb'_toNat, Nat.shiftRight_eq_div_pow]
    omega
  have hp := isPowerOfTwo_iff r.cfgChannels
  interval_cases j <;> simp only [Regs.checkFailures, Regs.CheckFails, List.getD_cons_succ,
    List.getD_cons_zero, decide_eq_true_eq]
  all_goals
    first
    | exact hl
    | (rw [← hp, Bool.not_eq_true', ← Bool.not_eq_true])
    | simp only [Regs.payloadSize, Regs.spf, Regs.bps, Regs.qPolicy, hs, hs2]

/-- Bit i of CFG_ERR after a commit says whether check i + 1 failed (10_state.md R26). -/
theorem Regs.getLsbD_checkMask_iff (r : Regs) {i : Nat} (h : i < 9) :
    r.checkMask.getLsbD i = true ↔ r.CheckFails (i + 1) := by
  rw [r.getLsbD_checkMask h, r.checkFailures_iff h]

/-- The mask is 0 exactly when no check fails. -/
theorem Regs.checkMask_eq_zero_iff (r : Regs) :
    r.checkMask = 0 ↔ ∀ i, i < 9 → ¬ r.CheckFails (i + 1) := by
  constructor
  · intro h i hi
    rw [← r.getLsbD_checkMask_iff hi, h]
    simp
  · intro h
    apply BitVec.eq_of_getLsbD_eq
    intro i hi
    have := h i hi
    rw [← r.getLsbD_checkMask_iff hi] at this
    simp_all

end Sys2Proof.Machine
end

