-- ==== Sys2Proof/Laws/Parts.lean ====
section
/-! SUPPORT. What the four parts of a frame's encoding write and what they leave alone: field
lemmas of writeCodes, writePayload, writeHeader and writeFrame, and the lengths of what they
write. -/

namespace Sys2Proof.Machine

variable (s : State)

/-! ### Lengths -/

@[simp] theorem length_bytesOfStream (n : Nat) (bits : List Bool) :
    (bytesOfStream n bits).length = n := by
  induction n generalizing bits with
  | zero => rfl
  | succ n ih => simp [bytesOfStream, ih]

@[simp] theorem length_packBytes (b n : Nat) (codes : List Byte) :
    (packBytes b n codes).length = n := length_bytesOfStream n _

@[simp] theorem State.length_packCodes : s.packCodes.length = s.regs.payloadLength :=
  length_packBytes _ _ _

@[simp] theorem Regs.length_headerBytes (r : Regs) : r.headerBytes.length = 32 := by
  simp [Regs.headerBytes, Regs.headerWords, wordBytes]

@[simp] theorem State.length_assembledBytes :
    s.assembledBytes.length = 32 + s.regs.payloadLength := by
  simp [State.assembledBytes, Config.headerLength]

@[simp] theorem State.length_samples : s.samples.length = s.regs.spf := by simp [State.samples]

@[simp] theorem length_percentileCodes (v : List Rat) : (percentileCodes v).length = v.length := by
  simp [percentileCodes]

@[simp] theorem length_frameCodes (q : Bool) (b : Nat) (v : List Rat) :
    (frameCodes q b v).length = v.length := by
  cases q <;> simp [frameCodes]

/-- A frame has one code for each sample (41_quantizer.md R156). -/
theorem State.length_quantizeFrame {codes : List Byte} (h : s.quantizeFrame = some codes) :
    codes.length = s.regs.spf := by
  unfold State.quantizeFrame at h
  split at h
  · simp only [Option.some.injEq] at h
    simp [← h]
  · cases h

/-! ### Fields -/

@[simp] theorem State.writeCodes_regs (codes : List Byte) : (s.writeCodes codes).regs = s.regs := by
  simp [State.writeCodes, State.drewSamples]
@[simp] theorem State.writeCodes_pending (codes : List Byte) : (s.writeCodes codes).pending = s.pending := by
  simp [State.writeCodes, State.drewSamples]
@[simp] theorem State.writeCodes_turns (codes : List Byte) : (s.writeCodes codes).turns = s.turns := by
  simp [State.writeCodes, State.drewSamples]
@[simp] theorem State.writeCodes_program (codes : List Byte) : (s.writeCodes codes).program = s.program := by
  simp [State.writeCodes, State.drewSamples]
@[simp] theorem State.writeCodes_replies (codes : List Byte) : (s.writeCodes codes).replies = s.replies := by
  simp [State.writeCodes, State.drewSamples]
@[simp] theorem State.writeCodes_draws (codes : List Byte) : (s.writeCodes codes).draws = s.draws + 8 * s.regs.spf := by
  simp [State.writeCodes, State.drewSamples]
@[simp] theorem State.buf_writeCodes_self (codes : List Byte) :
    (s.writeCodes codes).buf .code = (s.buf .code).writeRange 0 codes := by
  simp [State.writeCodes, State.drewSamples]
@[simp] theorem State.buf_writeCodes_ne (codes : List Byte) {c : BufName} (h : c ≠ .code) :
    (s.writeCodes codes).buf c = s.buf c := by
  simp [State.writeCodes, State.drewSamples, h]
@[simp] theorem State.writePayload_regs : (s.writePayload).regs = s.regs := by
  simp [State.writePayload]
@[simp] theorem State.writePayload_pending : (s.writePayload).pending = s.pending := by
  simp [State.writePayload]
@[simp] theorem State.writePayload_turns : (s.writePayload).turns = s.turns := by
  simp [State.writePayload]
@[simp] theorem State.writePayload_program : (s.writePayload).program = s.program := by
  simp [State.writePayload]
@[simp] theorem State.writePayload_replies : (s.writePayload).replies = s.replies := by
  simp [State.writePayload]
@[simp] theorem State.writePayload_draws : (s.writePayload).draws = s.draws + s.regs.spf := by
  simp [State.writePayload]
@[simp] theorem State.buf_writePayload_self :
    (s.writePayload).buf .pay = (s.buf .pay).writeRange 0 s.packCodes := by
  simp [State.writePayload]
@[simp] theorem State.buf_writePayload_ne {c : BufName} (h : c ≠ .pay) :
    (s.writePayload).buf c = s.buf c := by
  simp [State.writePayload, h]
@[simp] theorem State.writeHeader_regs : (s.writeHeader).regs = s.regs := by
  simp [State.writeHeader]
@[simp] theorem State.writeHeader_pending : (s.writeHeader).pending = s.pending := by
  simp [State.writeHeader]
@[simp] theorem State.writeHeader_turns : (s.writeHeader).turns = s.turns := by
  simp [State.writeHeader]
@[simp] theorem State.writeHeader_program : (s.writeHeader).program = s.program := by
  simp [State.writeHeader]
@[simp] theorem State.writeHeader_replies : (s.writeHeader).replies = s.replies := by
  simp [State.writeHeader]
@[simp] theorem State.writeHeader_draws : (s.writeHeader).draws = s.draws := by
  simp [State.writeHeader]
@[simp] theorem State.buf_writeHeader_self :
    (s.writeHeader).buf .hdr = (s.buf .hdr).writeRange 0 s.regs.headerBytes := by
  simp [State.writeHeader]
@[simp] theorem State.buf_writeHeader_ne {c : BufName} (h : c ≠ .hdr) :
    (s.writeHeader).buf c = s.buf c := by
  simp [State.writeHeader, h]
@[simp] theorem State.writeFrame_regs : (s.writeFrame).regs = s.regs := by
  simp [State.writeFrame]
@[simp] theorem State.writeFrame_pending : (s.writeFrame).pending = s.pending := by
  simp [State.writeFrame]
@[simp] theorem State.writeFrame_turns : (s.writeFrame).turns = s.turns := by
  simp [State.writeFrame]
@[simp] theorem State.writeFrame_program : (s.writeFrame).program = s.program := by
  simp [State.writeFrame]
@[simp] theorem State.writeFrame_replies : (s.writeFrame).replies = s.replies := by
  simp [State.writeFrame]
@[simp] theorem State.writeFrame_draws : (s.writeFrame).draws = s.draws + (32 + s.regs.payloadLength) := by
  simp [State.writeFrame, Config.headerLength]
@[simp] theorem State.buf_writeFrame_self :
    (s.writeFrame).buf .frame = (s.buf .frame).writeRange 0 s.assembledBytes := by
  simp [State.writeFrame]
@[simp] theorem State.buf_writeFrame_ne {c : BufName} (h : c ≠ .frame) :
    (s.writeFrame).buf c = s.buf c := by
  simp [State.writeFrame, h]
@[simp] theorem State.drewSamples_regs : s.drewSamples.regs = s.regs := rfl
@[simp] theorem State.drewSamples_pending : s.drewSamples.pending = s.pending := rfl
@[simp] theorem State.buf_drewSamples (b : BufName) : s.drewSamples.buf b = s.buf b := by
  simp [State.drewSamples]

end Sys2Proof.Machine
end

