-- ==== Sys2Proof/Laws/Exec.lean ====
section
/-! SUPPORT. Everything one command can do, said once for all commands, and the failure path as one
record update. -/

namespace Sys2Proof.Machine

variable {s t : State}

/-- The five commands behind the configuration gate (45_control.md R234). -/
abbrev encodeCommands : List Instr := [.encHdr, .quantize, .pack, .assemble, .encFrame]

/-- Everything a command can do: it completes, or it fails for one of the causes of
60_exceptions.md R251. -/
theorem exec_cases {i : Instr} (h : exec i s = .next t) :
    (i = .nop ∧ t = s.complete) ∨
      (i = .softReset ∧ t = (s.setRegs (Regs.reset s.regs.nMaxReg)).complete) ∨
      (∃ w, i = .illegal w ∧ t = s.fail .illegalCmd) ∨
      (i = .cfgCommit ∧ s.regs.checkMask = 0 ∧ t = (s.setRegs s.regs.acceptConfig).complete) ∨
      (i = .cfgCommit ∧ s.regs.checkMask ≠ 0 ∧
        t = (s.setRegs s.regs.rejectConfig).fail (primaryError s.regs.checkMask)) ∨
      (i ∈ encodeCommands ∧ s.regs.cfgValid = false ∧ t = s.fail .notConfigured) ∨
      ((i = .quantize ∨ i = .encFrame) ∧ s.regs.cfgValid = true ∧ s.quantizeFrame = none ∧
        t = s.drewSamples.fail .nonfiniteSample) ∨
      (i = .encHdr ∧ s.regs.cfgValid = true ∧ t = s.writeHeader.complete) ∨
      (i = .pack ∧ s.regs.cfgValid = true ∧ t = s.writePayload.complete) ∨
      (i = .assemble ∧ s.regs.cfgValid = true ∧ t = s.writeFrame.complete) ∨
      (∃ codes, i = .quantize ∧ s.regs.cfgValid = true ∧ s.quantizeFrame = some codes ∧
        t = (s.writeCodes codes).complete) ∨
      (∃ codes, i = .encFrame ∧ s.regs.cfgValid = true ∧ s.quantizeFrame = some codes ∧
        t = (s.writeCodes codes).writePayload.writeHeader.writeFrame.complete) := by
  cases i with
  | nop => exact .inl ⟨rfl, execNop_cases h⟩
  | softReset => exact .inr (.inl ⟨rfl, execSoftReset_cases h⟩)
  | illegal w => exact .inr (.inr (.inl ⟨w, rfl, execIllegal_cases (w := w) h⟩))
  | cfgCommit =>
    rcases execCfgCommit_cases h with hc | hc
    · exact .inr (.inr (.inr (.inl ⟨rfl, hc⟩)))
    · exact .inr (.inr (.inr (.inr (.inl ⟨rfl, hc⟩))))
  | encHdr => rcases execEncHdr_cases h with ⟨hv, ht⟩ | ⟨hv, ht⟩ <;> simp [hv, ht]
  | pack => rcases execPack_cases h with ⟨hv, ht⟩ | ⟨hv, ht⟩ <;> simp [hv, ht]
  | assemble => rcases execAssemble_cases h with ⟨hv, ht⟩ | ⟨hv, ht⟩ <;> simp [hv, ht]
  | quantize =>
    rcases execQuantize_cases h with ⟨c, hv, hq, ht⟩ | ⟨hv, hq, ht⟩ | ⟨hv, ht⟩ <;> simp [*]
  | encFrame =>
    rcases execEncFrame_cases h with ⟨c, hv, hq, ht⟩ | ⟨hv, hq, ht⟩ | ⟨hv, ht⟩ <;> simp [*]

/-- The failure path as one record update (60_exceptions.md R256, R257). -/
theorem Regs.recordError_done (r : Regs) (e : CmdError) :
    { r.recordError e with done := true } = r.failedWith e.code := by
  cases he : r.err <;> simp [Regs.recordError, Regs.failedWith, he]

/-- What a failed command leaves (60_exceptions.md R259). -/
theorem State.fail_eq (s : State) (e : CmdError) :
    s.fail e = { s with pending := none, regs := s.regs.failedWith e.code } := by
  rw [← Regs.recordError_done]; rfl

/-- QUANTIZE fails exactly when some sample is not finite (41_quantizer.md R151). -/
theorem State.quantizeFrame_eq_none : s.quantizeFrame = none ↔ ¬ s.FiniteSamples := by
  have : s.samples.all isFinite64 = true ↔ s.FiniteSamples := by
    simp [State.samples, State.FiniteSamples, Regs.spf]
  unfold State.quantizeFrame
  split <;> simp_all

/-- The codes of a frame of finite samples (41_quantizer.md R150). -/
theorem State.quantizeFrame_of_finite (h : s.FiniteSamples) :
    s.quantizeFrame =
      some (frameCodes s.regs.qPolicy s.regs.bps (s.samples.map value64)) := by
  have : s.samples.all isFinite64 = true := by
    simpa [State.samples, State.FiniteSamples, Regs.spf] using h
  rw [State.quantizeFrame, if_pos this]

end Sys2Proof.Machine
end

