-- ==== Sys2Proof/Laws/Host.lean ====
section
/-! SUPPORT. What the host port and one step of the machine can do, said once, guards included. -/

namespace Sys2Proof.Machine

variable {s t : State}

/-! ### The address map -/

/-- The buffer found at an address has the access inside its window (20_memory.md R61, R65). -/
theorem bufferAt_covers {nMax a : Nat} {b : BufName} (h : bufferAt nMax a = some b) :
    b.base ≤ a ∧ a + 3 < b.base + b.size nMax := by
  have := List.find?_some h
  simpa [BufName.covers] using this

/-- Below the register window's end there is no buffer. -/
theorem bufferAt_low {nMax a : Nat} (h : a < 0x1000) : bufferAt nMax a = none := by
  cases hb : bufferAt nMax a with
  | none => rfl
  | some b =>
    have := (bufferAt_covers hb).1
    cases b <;> simp [BufName.base] at this <;> omega

/-- An access inside one buffer's window lies in no other's: the windows do not overlap for a legal
N_MAX (20_memory.md R61). -/
theorem covers_base_add {nMax o : Nat} (hn : nMax ≤ 2 ^ 21) {b c : BufName}
    (ho : o + 3 < b.size nMax) : BufName.covers nMax (b.base + o) c = decide (c = b) := by
  rw [BufName.covers, ← Bool.decide_and, decide_eq_decide]
  cases b <;> cases c <;> simp only [BufName.base, BufName.size] at ho ⊢ <;>
    (try simp only [reduceCtorEq, iff_false, iff_true]) <;> omega

/-- The buffer at a window's base plus an offset inside it. -/
theorem bufferAt_base_add {nMax o : Nat} (hn : nMax ≤ 2 ^ 21) (b : BufName)
    (ho : o + 3 < b.size nMax) : bufferAt nMax (b.base + o) = some b := by
  cases b <;> simp [bufferAt, List.find?, covers_base_add hn ho]

/-- What an access at an address finds when it lies in none of the five windows. -/
theorem bufferAt_eq_none {nMax a : Nat}
    (h : ∀ b : BufName, ¬ (b.base ≤ a ∧ a < b.base + b.size nMax)) : bufferAt nMax a = none := by
  cases hb : bufferAt nMax a with
  | none => rfl
  | some b =>
    have := bufferAt_covers hb
    exact absurd ⟨this.1, by omega⟩ (h b)

/-! ### Register writes -/

/-- The registers a write can reach, CMD apart (20_memory.md R65, R66). -/
theorem Regs.write_eq_none {r : Regs} {off : Nat} {v : Word}
    (h : off ∉ [0x04, 0x10, 0x20, 0x24, 0x28, 0x2C, 0x30, 0x34, 0x38, 0x50, 0x54]) :
    r.write off v = none := by
  unfold Regs.write
  split <;> first | rfl | (exfalso; apply h; simp)

/-- Every accepted register write but CMD's (20_memory.md R63). -/
theorem Regs.write_cases {r q : Regs} {off : Nat} {v : Word} (h : r.write off v = some q) :
    (off = 0x04 ∧ q = r.writeStatus v) ∨
      (off = 0x10 ∧ q = { r with irqEn := v.setWidth 2 }) ∨
      (off = 0x20 ∧ q = { r.unvalidated with cfgSpf := v }) ∨
      (off = 0x24 ∧ q = { r.unvalidated with cfgBps := v.setWidth 8 }) ∨
      (off = 0x28 ∧ q = { r.unvalidated with cfgChannels := v }) ∨
      (off = 0x2C ∧ q = { r.unvalidated with cfgThreadId := v.setWidth 16 }) ∨
      (off = 0x30 ∧ q = { r.unvalidated with cfgStationId := v.setWidth 16 }) ∨
      (off = 0x34 ∧ q = { r.unvalidated with cfgVdifVersion := v.setWidth 8 }) ∨
      (off = 0x38 ∧ q = { r.unvalidated with cfgMode := v.setWidth 4 }) ∨
      (off = 0x50 ∧ q = { r with epochSeconds := v }) ∨
      (off = 0x54 ∧ q = { r with frameNumber := v }) := by
  unfold Regs.write at h
  split at h <;> cases h
  · exact .inl ⟨rfl, rfl⟩
  · exact .inr (.inl ⟨rfl, rfl⟩)
  · exact .inr (.inr (.inl ⟨rfl, rfl⟩))
  · exact .inr (.inr (.inr (.inl ⟨rfl, rfl⟩)))
  · exact .inr (.inr (.inr (.inr (.inl ⟨rfl, rfl⟩))))
  · exact .inr (.inr (.inr (.inr (.inr (.inl ⟨rfl, rfl⟩)))))
  · exact .inr (.inr (.inr (.inr (.inr (.inr (.inl ⟨rfl, rfl⟩))))))
  · exact .inr (.inr (.inr (.inr (.inr (.inr (.inr (.inl ⟨rfl, rfl⟩)))))))
  · exact .inr (.inr (.inr (.inr (.inr (.inr (.inr (.inr (.inl ⟨rfl, rfl⟩))))))))
  · exact .inr (.inr (.inr (.inr (.inr (.inr (.inr (.inr (.inr (.inl ⟨rfl, rfl⟩)))))))))
  · exact .inr (.inr (.inr (.inr (.inr (.inr (.inr (.inr (.inr (.inr ⟨rfl, rfl⟩)))))))))

/-- What a write to STATUS leaves of the other registers (10_state.md R24). -/
theorem Regs.writeStatus_eq (r : Regs) (v : Word) :
    r.writeStatus v =
      { r with
        done := r.done && !v.getLsbD 2
        err := r.err && !v.getLsbD 3
        errMulti := r.errMulti && !v.getLsbD 3 && !v.getLsbD 4
        errCode := if v.getLsbD 3 then 0x00 else r.errCode } := by
  cases h2 : v.getLsbD 2 <;> cases h3 : v.getLsbD 3 <;> cases h4 : v.getLsbD 4 <;>
    simp only [Regs.writeStatus, Regs.ackDone, Regs.ackErr, Regs.ackErrMulti, Regs.clearError, h2,
      h3, h4, Bool.and_true, Bool.and_false, Bool.not_true, Bool.not_false, if_true, if_false,
      Bool.false_eq_true]

/-! ### MemWrite and MemRead -/

/-- Everything `MemWrite` can do (20_memory.md R63). -/
theorem State.memWrite_cases {a v : Word} {resp : Resp} (h : s.memWrite a v = (resp, t)) :
    (resp = .error ∧ t = s) ∨
      (resp = .okay ∧ s.busy = false ∧ a.toNat = 0 ∧ t = s.acceptCommand v) ∨
      (∃ r, resp = .okay ∧ s.busy = false ∧ a.toNat < 0x100 ∧ a.toNat ≠ 0 ∧
        s.regs.write a.toNat v = some r ∧ t = s.setRegs r) ∨
      (∃ b, resp = .okay ∧ s.busy = false ∧ a.toNat % 4 = 0 ∧ bufferAt s.nMax a.toNat = some b ∧
        b.hostWritable = true ∧ t = s.writeBytes b (a.toNat - b.base) (wordBytes v)) := by
  unfold State.memWrite at h
  by_cases hal : a.toNat % 4 ≠ 0
  · rw [if_pos hal] at h; cases h; exact .inl ⟨rfl, rfl⟩
  rw [if_neg hal] at h
  by_cases hb : s.busy = true
  · rw [if_pos hb] at h; cases h; exact .inl ⟨rfl, rfl⟩
  rw [if_neg hb] at h
  have hb : s.busy = false := by simpa using hb
  by_cases hlo : a.toNat < 0x100
  · rw [if_pos hlo] at h
    by_cases h0 : a.toNat = 0
    · simp only [State.writeRegister, h0, if_pos] at h
      cases h
      exact .inr (.inl ⟨rfl, hb, h0, rfl⟩)
    · cases hw : s.regs.write a.toNat v with
      | none =>
        simp only [State.writeRegister, if_neg h0, hw, Option.map_none] at h
        cases h; exact .inl ⟨rfl, rfl⟩
      | some r =>
        simp only [State.writeRegister, if_neg h0, hw, Option.map_some] at h
        cases h
        exact .inr (.inr (.inl ⟨r, rfl, hb, hlo, h0, rfl, rfl⟩))
  · rw [if_neg hlo] at h
    cases hw : bufferAt s.nMax a.toNat with
    | none => simp only [hw] at h; cases h; exact .inl ⟨rfl, rfl⟩
    | some b =>
      simp only [hw] at h
      by_cases hh : b.hostWritable = true
      · rw [if_pos hh] at h; cases h
        exact .inr (.inr (.inr ⟨b, rfl, hb, by omega, rfl, hh, rfl⟩))
      · rw [if_neg hh] at h; cases h; exact .inl ⟨rfl, rfl⟩

/-- Everything `MemRead` can answer (20_memory.md R62). -/
theorem State.memRead_cases (s : State) (a : Word) :
    s.memRead a = (.error, 0) ∨
      (∃ v, a.toNat < 0x100 ∧ s.readRegister a.toNat = some v ∧ s.memRead a = (.okay, v)) ∨
      (∃ b, 0x100 ≤ a.toNat ∧ s.busy = false ∧ bufferAt s.nMax a.toNat = some b ∧
        s.memRead a = (.okay, s.readWord b (a.toNat - b.base))) := by
  unfold State.memRead
  by_cases hal : a.toNat % 4 ≠ 0
  · rw [if_pos hal]; exact .inl rfl
  rw [if_neg hal]
  by_cases hlo : a.toNat < 0x100
  · rw [if_pos hlo]
    cases hr : s.readRegister a.toNat with
    | none => exact .inl rfl
    | some v => exact .inr (.inl ⟨v, hlo, rfl, rfl⟩)
  · rw [if_neg hlo]
    cases hw : bufferAt s.nMax a.toNat with
    | none => exact .inl rfl
    | some b =>
      cases hb : s.busy with
      | true => exact .inl (by simp)
      | false => exact .inr (.inr ⟨b, by omega, rfl, rfl, by simp⟩)

/-! ### The host agent and one step -/

/-- Everything a host step can do (20_memory.md R75). -/
theorem State.hostTurn_cases (h : s.hostTurn = t) :
    (s.program = [] ∧ t = s) ∨
      (∃ a p, s.program = .rd a :: p ∧ t = ({ s with program := p } : State).hostRead a) ∨
      (∃ a v p, s.program = .wr a v :: p ∧ t = ({ s with program := p } : State).hostWrite a v) ∨
      (∃ p, s.program = .wait :: p ∧
        (t = s.hostRead statusAddress ∨
          t = ({ s with program := p } : State).hostRead statusAddress)) := by
  subst h
  unfold State.hostTurn
  split
  · next hp => exact .inl ⟨hp, rfl⟩
  · next a p hp => exact .inr (.inl ⟨a, p, hp, rfl⟩)
  · next a v p hp => exact .inr (.inr (.inl ⟨a, v, p, hp, rfl⟩))
  · next p hp =>
    refine .inr (.inr (.inr ⟨p, hp, ?_⟩))
    split
    · exact .inl rfl
    · exact .inr rfl

/-- Everything one step can do: from the state with the turn taken, the pending command's
execution, a host step, the reset input, or nothing (20_memory.md R75). -/
theorem step_cases (h : step s = .next t) :
    ∃ ts, (∃ w, s.pending = some w ∧
        exec (decode w) ({ s with turns := ts } : State) = .next t) ∨
      t = ({ s with turns := ts } : State) ∨
      t = ({ s with turns := ts } : State).hostTurn ∨
      t = ({ s with turns := ts } : State).hardReset := by
  have engine : ∀ ts, ({ s with turns := ts } : State).engineTurn = .next t →
      (∃ w, s.pending = some w ∧ exec (decode w) ({ s with turns := ts } : State) = .next t) ∨
        t = ({ s with turns := ts } : State) := by
    intro ts h
    unfold State.engineTurn at h
    split at h
    · next w hw => exact .inl ⟨w, hw, h⟩
    · exact .inr (by simpa using h.symm)
  unfold step at h
  split at h
  · next ts _ => exact ⟨ts, (engine ts h).imp id .inl⟩
  · next ts _ => exact ⟨ts, .inr (.inr (.inl (by simpa using h.symm)))⟩
  · next ts _ => exact ⟨ts, .inr (.inr (.inr (by simpa using h.symm)))⟩
  · next hts =>
    have hs : ({ s with turns := [] } : State) = s := by cases s; simp_all
    split at h
    · exact ⟨[], (engine [] (by rwa [hs])).imp id .inl⟩
    · exact ⟨[], .inr (.inr (.inl (by rw [hs]; simpa using h.symm)))⟩

/-- The host's step, with its turn listed or with no turn listed and nothing pending. -/
theorem step_of_hostMoves {ts : List Turn} (h : s.HostMoves ts) :
    step s = .next ({ s with turns := ts } : State).hostTurn := by
  rcases h with h | ⟨h, rfl, hp⟩
  · simp only [step, h]
  · have hb : s.busy = false := by simp [State.busy, hp]
    have hs : ({ s with turns := [] } : State) = s := by cases s; simp_all
    simp only [step, h, hb, hs, Bool.false_eq_true, if_false]

/-- What an access depends on: neither the turns nor the program. -/
@[simp] theorem State.memRead_setEnvironment (s : State) (ts : List Turn) (p : List HostOp)
    (a : Word) : ({ s with turns := ts, program := p } : State).memRead a = s.memRead a := rfl

/-- A host write touches neither the turns, nor the program, nor the replies. -/
theorem State.memWrite_sameEnvironment (s : State) (a v : Word) :
    SameEnvironment s (s.memWrite a v).2 := by
  obtain ⟨resp, t, h⟩ : ∃ resp t, s.memWrite a v = (resp, t) := ⟨_, _, rfl⟩
  rw [h]
  rcases State.memWrite_cases h with
    ⟨-, rfl⟩ | ⟨-, -, -, rfl⟩ | ⟨r, -, -, -, -, -, rfl⟩ | ⟨b, -, -, -, -, -, rfl⟩ <;>
    simp [SameEnvironment, State.acceptCommand]

/-- A host write does the same whatever the turns and the program. -/
theorem State.memWrite_setEnvironment (s : State) (ts : List Turn) (p : List HostOp)
    (a v : Word) : ({ s with turns := ts, program := p } : State).memWrite a v =
      ((s.memWrite a v).1, { (s.memWrite a v).2 with turns := ts, program := p }) := by
  unfold State.memWrite
  by_cases h1 : a.toNat % 4 ≠ 0
  · simp [h1]
  · cases hb : s.pending with
    | some w => simp [State.busy, hb]
    | none =>
      by_cases hl : a.toNat < 0x100
      · simp only [State.busy, hb, hl, State.writeRegister, h1]
        by_cases h0 : a.toNat = 0
        · simp [h0, State.acceptCommand]
        · simp only [h0]
          cases s.regs.write a.toNat v <;> simp [State.setRegs, hb]
      · simp only [State.busy, hb, hl, h1, State.nMax]
        cases bufferAt s.regs.nMaxReg.toNat a.toNat with
        | none => simp [hb]
        | some b =>
          cases b <;> simp [BufName.hostWritable, State.writeBytes, State.setBuf, State.buf, hb]

/-! ### The end of a run -/

@[simp] theorem Reply.startedCommand_read (a : Word) (resp : Resp) (data : Word) :
    (Reply.read a resp data).startedCommand = false := rfl

@[simp] theorem Reply.startedCommand_write_okay (a : Word) :
    (Reply.write a .okay).startedCommand = (a == commandAddress) := rfl

@[simp] theorem Reply.startedCommand_write_error (a : Word) :
    (Reply.write a .error).startedCommand = false := rfl

/-- When a run has ended (70_reset_and_hazards.md R292). -/
theorem State.runEnded_iff :
    s.runEnded = true ↔ s.program = [] ∧
      ∀ r, s.replies.head? = some r → r.startedCommand = true → s.pending = none := by
  cases hr : s.replies with
  | nil => simp [State.runEnded, hr]
  | cons r rs => cases hc : r.startedCommand <;> simp [State.runEnded, hr, hc]

end Sys2Proof.Machine
end

