-- ==== Sys2Proof/Laws/PerInstr.lean ====
section
/-! SUPPORT. Facts about every command as syntax, one lemma per constructor. -/

namespace Sys2Proof.Laws.EncodedRange

/-- A command other than an illegal one has an encoding below 8, its reserved bits 0
(30_encoding.md R90, R91); a well-formed illegal command's word is at least 8. -/
def Statement : Instr → Prop
  | .nop => (encode .nop).toNat < 8
  | .cfgCommit => (encode .cfgCommit).toNat < 8
  | .encHdr => (encode .encHdr).toNat < 8
  | .quantize => (encode .quantize).toNat < 8
  | .pack => (encode .pack).toNat < 8
  | .assemble => (encode .assemble).toNat < 8
  | .encFrame => (encode .encFrame).toNat < 8
  | .softReset => (encode .softReset).toNat < 8
  | .illegal w => (Instr.illegal w).wellFormed = true → 8 ≤ (encode (.illegal w)).toNat

theorem nop : Statement .nop := by show (encode .nop).toNat < 8; decide
theorem cfgCommit : Statement .cfgCommit := by show (encode .cfgCommit).toNat < 8; decide
theorem encHdr : Statement .encHdr := by show (encode .encHdr).toNat < 8; decide
theorem quantize : Statement .quantize := by show (encode .quantize).toNat < 8; decide
theorem pack : Statement .pack := by show (encode .pack).toNat < 8; decide
theorem assemble : Statement .assemble := by show (encode .assemble).toNat < 8; decide
theorem encFrame : Statement .encFrame := by show (encode .encFrame).toNat < 8; decide
theorem softReset : Statement .softReset := by show (encode .softReset).toNat < 8; decide

theorem illegal (w : Word) : Statement (.illegal w) := by
  intro h
  by_contra hlt
  have hlt : w.toNat < 8 := by simpa [encode] using hlt
  have h0 : w.extractLsb' 8 24 = 0#24 := by
    apply BitVec.eq_of_toNat_eq
    simp only [BitVec.extractLsb'_toNat, Nat.shiftRight_eq_div_pow, BitVec.toNat_ofNat]
    omega
  have h1 : (w.extractLsb' 0 8).toNat < 8 := by
    simp only [BitVec.extractLsb'_toNat, Nat.shiftRight_eq_div_pow]
    omega
  simp [Instr.wellFormed, illegalWord, h0] at h
  omega

end Sys2Proof.Laws.EncodedRange
end

