-- ==== Sys2Proof/Tests/Slice0.lean ====
section
/-! SUPPORT. Tests of the model against the words of 30_encoding.md and the vectors of
95_test_vectors.md, and for every statement with hypotheses a concrete state and operands that meet
them. -/

namespace Sys2Proof.Tests

open Sys2Proof Sys2Proof.Machine

/-! ### Helpers -/

/-- The state a command leaves; the state itself where it does not go on (it always does). -/
def after (i : Instr) (s : State) : State :=
  match exec i s with
  | .next t => t
  | .fault _ => s
  | .refused _ => s

/-- Whether a command goes on. -/
def goesOn (i : Instr) (s : State) : Bool :=
  match exec i s with
  | .next _ => true
  | .fault _ => false
  | .refused _ => false

theorem exec_after {i : Instr} {s : State} (h : goesOn i s = true) :
    exec i s = .next (after i s) := by
  unfold goesOn at h
  unfold after
  split at h
  · next ht => rw [ht]
  · cases h
  · cases h

/-- The SAMP cells that hold the given samples, each least significant byte first. -/
def sampleBytes (xs : List Binary64) : List Byte :=
  xs.flatMap fun x => (List.range 8).map fun j => x.extractLsb' (8 * j) 8

/-- The bytes the first `n` cells of a buffer hold, 0 where nothing was written. -/
def bytesOf (m : Memory) (n : Nat) : List Nat :=
  (List.range n).map fun o => ((m.read o).getD 0).toNat

/-- N_MAX = 8, configuration V5 of 95_test_vectors.md (b = 8, spf = 8), not committed. -/
def tinyRegs : Regs := { Regs.reset 8 with cfgSpf := 8, cfgBps := 8 }

def tiny : State := { State.resetWith 8 with regs := tinyRegs }

/-- V5's configuration, committed: P = 8, FLU = 5, FB = 40. -/
def committed : State :=
  { tiny with regs := { tinyRegs with
      cfgValid := true, payloadBytes := 8, frameLengthUnits := 5, frameBytes := 40 } }

/-- P1's eight samples −1, 0.5, 1.5, 2.5, 3.5, 0, 1, 2. -/
def p1Samples : List Binary64 :=
  [0xBFF0000000000000#64, 0x3FE0000000000000#64, 0x3FF8000000000000#64, 0x4004000000000000#64,
   0x400C000000000000#64, 0x0000000000000000#64, 0x3FF0000000000000#64, 0x4000000000000000#64]

def clipState : State := { committed with samp := cellsFrom 0 (sampleBytes p1Samples) }

/-- `clipState` with sample 7 at +∞. -/
def infState : State :=
  { committed with
    samp := cellsFrom 0 (sampleBytes (p1Samples.take 7 ++ [0x7FF0000000000000#64])) }

/-- N_MAX = 32, spf 32, b = 2, percentile policy and offset seconds (P3's configuration). -/
def pctCommitted : State :=
  { State.resetWith 32 with regs := { Regs.reset 32 with
      cfgSpf := 32, cfgMode := 3, cfgValid := true, payloadBytes := 8, frameLengthUnits := 5
      frameBytes := 40 } }

/-- Q9's samples −3, 10, 0.25, 0.25, 7.5, −0.0, 0.0, 2, four times (Q10). -/
def q10Samples : List Binary64 :=
  (List.replicate 4 [0xC008000000000000#64, 0x4024000000000000#64, 0x3FD0000000000000#64,
    0x3FD0000000000000#64, 0x401E000000000000#64, 0x8000000000000000#64, 0x0000000000000000#64,
    0x4000000000000000#64]).flatten

def pctState : State := { pctCommitted with samp := cellsFrom 0 (sampleBytes q10Samples) }

/-- `committed` with the codes of the host in CODE. -/
def codedState : State := { committed with code := cellsFrom 0 [0x12, 0xFE, 3, 4, 5, 6, 7, 8] }

/-- Header and payload of A1: HDR bytes 0 to 31 are 100, 101, …, PAY is 06 C6 four times. -/
def partsState : State :=
  { committed with
    hdr := cellsFrom 0 ((List.range 32).map fun i => BitVec.ofNat 8 (100 + i))
    pay := cellsFrom 0 [0x06, 0xC6, 0x06, 0xC6, 0x06, 0xC6, 0x06, 0xC6] }

/-- `committed` with other values in the header's registers: H5's second and frame. -/
def headerState (mode : BitVec 4) : State :=
  { committed with regs := { committed.regs with
      cfgMode := mode, epochSeconds := 1593561599, frameNumber := 3199 } }

/-- A state with an error recorded, a second one counted. -/
def errorState : State :=
  { committed with regs := { committed.regs with
      err := true, errMulti := true, errCode := 0x10 } }

/-- Registers whose lowest failing check is the i-th: V3, V13, V16, V11, V19, V23, V25, V27, V28. -/
def failing (i : Nat) : Regs :=
  match i with
  | 1 => { Regs.reset 65536 with cfgBps := 0 }
  | 2 => { Regs.reset 65536 with cfgChannels := 3 }
  | 3 => { Regs.reset 65536 with cfgStationId := 0x4180 }
  | 4 => { Regs.reset 65536 with cfgSpf := 28 }
  | 5 => { Regs.reset 65536 with cfgSpf := 0 }
  | 6 => { Regs.reset 65536 with cfgVdifVersion := 8 }
  | 7 => { Regs.reset 65536 with cfgThreadId := 1024 }
  | 8 => { Regs.reset 65536 with cfgMode := 1, cfgBps := 4, cfgSpf := 16 }
  | _ => { Regs.reset 65536 with cfgMode := 4 }

/-! ### Well-formed commands -/

/-- The one check: a word that is a command is no illegal command, at each of the eight. -/
theorem test_wellFormed_refuses_command_words :
    ∀ n, n < 8 → (Instr.illegal (BitVec.ofNat 32 n)).wellFormed = false := by decide

theorem test_wellFormed_accepts :
    (Instr.illegal 0x8#32).wellFormed = true ∧ (Instr.illegal 0x100#32).wellFormed = true ∧
      Instr.pack.wellFormed = true := by decide

/-! ### Decoding: each row's word from 30_encoding.md R90 and R91, as RSVD ++ OPCODE -/

theorem test_decode_nop : decode (0#24 ++ 0b00000000#8) = .nop := by decide
theorem test_decode_cfgCommit : decode (0#24 ++ 0b00000001#8) = .cfgCommit := by decide
theorem test_decode_encHdr : decode (0#24 ++ 0b00000010#8) = .encHdr := by decide
theorem test_decode_quantize : decode (0#24 ++ 0b00000011#8) = .quantize := by decide
theorem test_decode_pack : decode (0#24 ++ 0b00000100#8) = .pack := by decide
theorem test_decode_assemble : decode (0#24 ++ 0b00000101#8) = .assemble := by decide
theorem test_decode_encFrame : decode (0#24 ++ 0b00000110#8) = .encFrame := by decide
theorem test_decode_softReset : decode (0#24 ++ 0b00000111#8) = .softReset := by decide

/-- C3 to C6: an undefined opcode, and reserved bits set beside a defined one. -/
theorem test_decode_illegal :
    decode (0#24 ++ 0b00001000#8) = .illegal 0x8#32 ∧ decode 0xFF#32 = .illegal 0xFF#32 ∧
      decode (1#24 ++ 0b00000100#8) = .illegal 0x104#32 ∧
      decode 0x80000001#32 = .illegal 0x80000001#32 := by decide

/-- The table's word of a row, through the host's two entry points. -/
theorem test_table_word :
    decodeTableWord 32 5 = some .assemble ∧ decodeTableWord 8 5 = some .assemble ∧
      (State.reset.withFetchWord 32 5).pending = some 5 := by decide

/-! ### Commands -/

/-- C1: NOP from hard reset leaves STATUS 0x04. -/
theorem test_nop : (after .nop State.reset).statusWord = 0x04 := by decide

/-- V1: the reset configuration gives P 5000, FLU 629, FB 5032, L2C 0 and STATUS 0x05. -/
theorem test_cfgCommit_pass :
    let t := after .cfgCommit State.reset
    t.statusWord = 0x05 ∧ t.regs.payloadBytes = 5000 ∧ t.regs.frameLengthUnits = 629 ∧
      t.regs.frameBytes = 5032 ∧ t.regs.log2Channels = 0 ∧ t.regs.cfgErr = 0 := by decide

/-- V30: eight checks fail at once; code 0x01, mask 0x1F7, STATUS 0x0C. -/
theorem test_cfgCommit_fail :
    let t := after .cfgCommit { State.reset with regs := { State.reset.regs with
      cfgBps := 0, cfgChannels := 0, cfgStationId := 0xFFFF, cfgSpf := 0, cfgVdifVersion := 0xFF
      cfgThreadId := 0xFFFF, cfgMode := 0xD } }
    t.statusWord = 0x0C ∧ t.regs.errCode = 0x01 ∧ t.regs.cfgErr = 0x1F7 := by decide

/-- H14: every field of words 1, 2 and 3 at its largest. -/
theorem test_encHdr_fields :
    let t := after .encHdr { committed with regs := { committed.regs with
      cfgBps := 8, cfgThreadId := 1023, cfgStationId := 0x5A7A, cfgVdifVersion := 7
      log2Channels := 31, frameLengthUnits := 7, epochSeconds := 1577836800
      frameNumber := 0xFFFFFF } }
    t.readWord .hdr 0 = 0x1E0BE100 ∧ t.readWord .hdr 4 = 0xA0FFFFFF ∧
      t.readWord .hdr 8 = 0xFF000007 ∧ t.readWord .hdr 12 = 0x1FFF5A7A := by decide +kernel

/-- H8b: a second before 2000 wraps the index, and SECMODE = 1 gives the offset. -/
theorem test_encHdr_offset :
    let t := after .encHdr { committed with regs := { committed.regs with
      cfgMode := 2, epochSeconds := 946684799 } }
    t.readWord .hdr 0 = 0x00F293FF ∧ t.readWord .hdr 4 = 0xFC000000 := by decide +kernel

/-- P1: −1, 0.5, 1.5, 2.5, 3.5, 0, 1, 2 under clip-floor; table 2.2: 2.9999999999999996, 1e300, the
smallest subnormal and 255.9 at b = 3. -/
theorem test_quantize_clipFloor :
    bytesOf (after .quantize clipState).code 8 = [0, 0, 1, 2, 3, 0, 1, 2] ∧
      [0x4007FFFFFFFFFFFF#64, 0x7E37E43C8800759C#64, 0x0000000000000001#64,
        0x406FFCCCCCCCCCCD#64].map (fun x => clipFloor (value64 x) 3) = [2, 7, 0, 7] := by
  decide +kernel

/-- Q9: the codes of −3, 10, 0.25, 0.25, 7.5, −0, 0, 2 under the percentile policy; Q8: a sample
equal to a threshold falls below it. -/
theorem test_quantize_percentile :
    bytesOf (after .quantize pctState).code 8 = [0, 3, 1, 1, 3, 0, 0, 2] ∧
      percentileCodes [1, 2, 3, 4, 5] = [0, 0, 1, 2, 3] := by decide +kernel

/-- K6 at the head of eight 8-bit codes. -/
theorem test_pack : bytesOf (after .pack codedState).pay 3 = [0x12, 0xFE, 0x03] := by
  decide +kernel

/-- K1, K7, K4 and K8: two, three and five bits, codes masked, the end filled with zeros. -/
theorem test_packBytes :
    packBytes 2 1 [3, 0, 1, 2] = [0xC6] ∧ packBytes 2 1 [0xFF, 0, 7, 4] = [0xCC] ∧
      packBytes 3 2 [7, 0, 5] = [0xE2, 0x80] ∧ packBytes 5 2 [0x1F, 0, 0x15] = [0xF8, 0x2A] := by
  decide +kernel

/-- A1: header bytes, then payload bytes. -/
theorem test_assemble :
    bytesOf (after .assemble partsState).frame 40 =
      (List.range 32).map (100 + ·) ++ [0x06, 0xC6, 0x06, 0xC6, 0x06, 0xC6, 0x06, 0xC6] := by
  decide +kernel

/-- The whole chain on P1's samples: the payload follows the 32 header bytes in FRAME. -/
theorem test_encFrame :
    (bytesOf (after .encFrame clipState).frame 40).drop 32 = [0, 0, 1, 2, 3, 0, 1, 2] := by
  decide +kernel

/-- F1: an infinite sample fails the frame, STATUS 0x0D, and FRAME is not written. -/
theorem test_encFrame_nonfinite :
    let t := after .encFrame infState
    t.statusWord = 0x0D ∧ t.regs.errCode = 0x12 ∧ t.frame = [] ∧ t.code = [] := by decide +kernel

/-- C2: SOFT_RESET leaves STATUS 0x04 and the reset values, and keeps the buffers. -/
theorem test_softReset :
    let t := after .softReset clipState
    t.statusWord = 0x04 ∧ t.regs.cfgSpf = 20000 ∧ t.regs.cfgBps = 2 ∧ t.samp = clipState.samp := by
  decide +kernel

/-- C5: ILLEGAL_CMD, from hard reset STATUS 0x0C. -/
theorem test_illegal :
    let t := after (.illegal 0x104) State.reset
    t.statusWord = 0x0C ∧ t.regs.errCode = 0x10 := by decide

/-- C8: ASSEMBLE from hard reset fails with NOT_CONFIGURED. -/
theorem test_assemble_notConfigured :
    let t := after .assemble State.reset
    t.statusWord = 0x0C ∧ t.regs.errCode = 0x11 ∧ t.frame = [] := by decide

/-! ### Host port -/

/-- P-1 to P-4, P-9, P-12, P-13, P-15: reads that are refused. -/
theorem test_reads_refused :
    [0x2#32, 0x18, 0xFC, 0x100, 0x1020, 0x01080000, 0x03010000, 0x04010020].map
      (fun a => State.reset.memRead a) = List.replicate 8 (.error, 0) := by decide +kernel

/-- P-5 to P-8, P-25: writes that are refused. -/
theorem test_writes_refused :
    [0x8#32, 0x14, 0x40, 0x1000, 0x03000000].map (fun a => State.reset.memWrite a 1) =
      List.replicate 5 (.error, State.reset) := by decide +kernel

/-- P-17, P-18, P-19: a register stores the bits it has. -/
theorem test_writes_masked :
    ((State.reset.memWrite 0x24 0x1FF).2.memRead 0x24).2 = 0xFF ∧
      ((State.reset.memWrite 0x30 0x12345678).2.memRead 0x30).2 = 0x5678 ∧
      ((State.reset.memWrite 0x38 0xFF).2.memRead 0x38).2 = 0x0F := by decide

/-- P-26: CODE bytes 0 to 3 are 44 33 22 11. -/
theorem test_code_write_little_endian :
    let t := (State.reset.memWrite 0x02000000 0x11223344).2
    bytesOf t.code 4 = [0x44, 0x33, 0x22, 0x11] ∧ (t.memRead 0x02000000).2 = 0x11223344 := by
  decide +kernel

/-- W2, W3: ERR_MULTI alone, and ERR with all of the error's record. -/
theorem test_status_write :
    let s : State := { State.reset with regs := { State.reset.regs with
      cfgValid := true, done := true, err := true, errMulti := true, errCode := 0x10, irqEn := 2 } }
    let t2 := (s.memWrite 0x04 0x10).2
    let t3 := (s.memWrite 0x04 0x08).2
    t2.statusWord = 0x0D ∧ t2.regs.errCode = 0x10 ∧ t2.irq = true ∧
      t3.statusWord = 0x05 ∧ t3.regs.errCode = 0x00 ∧ t3.irq = false := by decide

/-- W6: a CMD write clears DONE, so `irq` falls. -/
theorem test_command_write :
    let s : State := { State.reset with regs := { State.reset.regs with
      cfgValid := true, done := true, irqEn := 1 } }
    let t := (s.memWrite 0x00 0).2
    s.irq = true ∧ t.statusWord = 0x03 ∧ t.irq = false ∧ t.pending = some 0 := by decide

/-- R292: after `cmd` then `rd` the run has ended, the command still pending or not. -/
theorem test_runEnded_read_last :
    let s : State := { committed with
      pending := some 6, replies := [.read 0x04 .okay 0x03, .write 0x00 .okay] }
    s.runEnded = true ∧ ({ s with pending := none } : State).runEnded = true ∧
      ({ s with program := [.wait] } : State).runEnded = false := by decide

/-- R292: after a last `cmd` the run ends with the command's completion. -/
theorem test_runEnded_command_last :
    let s : State := { committed with pending := some 0, replies := [.write 0x00 .okay] }
    s.runEnded = false ∧ (after .nop s).runEnded = true := by decide

/-- `wrs 0, 0xBFF0000000000000`, `clr` and `cmd ENC_HDR`, as programs P1 and P2 expand them. -/
theorem test_expand :
    expandProgram [.wrs 0 0xBFF0000000000000, .clr, .cmd .encHdr] =
      [.wr 0x01000000 0x00000000, .wr 0x01000004 0xBFF00000, .wr 0x04 0x1C, .wr 0x00 0x02] := by
  decide +kernel

/-! ### Witnesses: for each statement with hypotheses, states and operands that meet them -/

/-- The invariant holds of a committed state: canonical buffers, an accepted configuration and its
derived registers. -/
theorem committed_inv : committed.Inv where
  nMax := by decide
  buffers := by
    intro b
    cases b <;> exact ⟨List.Pairwise.nil, by intro c hc; cases hc⟩
  accepted _ :=
    { bps := by decide, channels := ⟨0, by decide⟩, station := by decide, frameLength := by decide
      spf := by decide, version := by decide, thread := by decide, policy := by decide
      layout := by decide }
  derived _ :=
    { payload := by decide, frame := by decide, channels := by decide, mask := by decide }
  units := by decide
  noError := by decide
  someError := fun h => absurd h (by decide)
  pendingNotDone := by decide

theorem pctCommitted_inv : pctCommitted.Inv where
  nMax := by decide
  buffers := by
    intro b
    cases b <;> exact ⟨List.Pairwise.nil, by intro c hc; cases hc⟩
  accepted _ :=
    { bps := by decide, channels := ⟨0, by decide⟩, station := by decide, frameLength := by decide
      spf := by decide, version := by decide, thread := by decide, policy := by decide
      layout := by decide }
  derived _ :=
    { payload := by decide, frame := by decide, channels := by decide, mask := by decide }
  units := by decide
  noError := by decide
  someError := fun h => absurd h (by decide)
  pendingNotDone := by decide

/-- Samples that fit SAMP keep the invariant. -/
theorem inv_withSamples {s : State} (h : s.Inv) (bs : List Byte) (hb : bs.length ≤ 8 * s.nMax) :
    ({ s with samp := cellsFrom 0 bs } : State).Inv where
  nMax := h.nMax
  buffers b := by
    cases b with
    | samp =>
      refine ⟨cellsFrom_wf 0 bs, fun c hc => ?_⟩
      have := mem_cellsFrom hc
      show c.1 < 8 * s.nMax
      omega
    | hdr => exact h.buffers .hdr
    | code => exact h.buffers .code
    | pay => exact h.buffers .pay
    | frame => exact h.buffers .frame
  accepted := h.accepted
  derived := h.derived
  units := h.units
  noError := h.noError
  someError := h.someError
  pendingNotDone := h.pendingNotDone

theorem clipState_inv : clipState.Inv := inv_withSamples committed_inv _ (by decide +kernel)

theorem pctState_inv : pctState.Inv := inv_withSamples pctCommitted_inv _ (by decide +kernel)

theorem headerState_inv_raw : (headerState 0).Inv where
  nMax := committed_inv.nMax
  buffers := committed_inv.buffers
  accepted _ :=
    { bps := by decide, channels := ⟨0, by decide⟩, station := by decide, frameLength := by decide
      spf := by decide, version := by decide, thread := by decide, policy := by decide
      layout := by decide }
  derived _ :=
    { payload := by decide, frame := by decide, channels := by decide, mask := by decide }
  units := by decide
  noError := by decide
  someError := fun h => absurd h (by decide)
  pendingNotDone := by decide

theorem headerState_inv_offset : (headerState 2).Inv where
  nMax := committed_inv.nMax
  buffers := committed_inv.buffers
  accepted _ :=
    { bps := by decide, channels := ⟨0, by decide⟩, station := by decide, frameLength := by decide
      spf := by decide, version := by decide, thread := by decide, policy := by decide
      layout := by decide }
  derived _ :=
    { payload := by decide, frame := by decide, channels := by decide, mask := by decide }
  units := by decide
  noError := by decide
  someError := fun h => absurd h (by decide)
  pendingNotDone := by decide

theorem clipState_finite : clipState.FiniteSamples := by
  show ∀ i, i < 8 → isFinite64 (clipState.sampleWord i) = true
  decide +kernel

theorem pctState_finite : pctState.FiniteSamples := by
  show ∀ i, i < 32 → isFinite64 (pctState.sampleWord i) = true
  decide +kernel

theorem infState_not_finite : isFinite64 (infState.sampleWord 7) = false := by decide +kernel

theorem infState_not_finiteSamples : ¬ infState.FiniteSamples := fun h => by
  have := h 7 (by decide +kernel)
  rw [infState_not_finite] at this
  cases this

theorem witness_DecodeEncodeAgree :
    (Instr.illegal 0x8#32).wellFormed = true ∧ Instr.softReset.wellFormed = true := by decide

/-- Both clauses: the engine's turn listed, and no turn listed. -/
theorem witness_EngineStepExecutesPendingWord :
    let s : State := { committed with pending := some 6, turns := [.engine, .host] }
    let r : State := { committed with pending := some 6 }
    s.pending = some 6 ∧ s.turns = .engine :: [.host] ∧ r.pending = some 6 ∧ r.turns = [] := by
  decide

/-- Both clauses, a read and a write at the head of the program, and both ways the host moves. -/
theorem witness_HostStepIsOneAccess :
    let s : State := { committed with turns := [.host], program := [.rd 0x04] }
    let r : State := { committed with program := [.wr 0x50 7, .wait] }
    (s.HostMoves [] ∧ s.program = .rd 0x04 :: []) ∧
      r.HostMoves [] ∧ r.program = .wr 0x50 7 :: [.wait] :=
  ⟨⟨.inl rfl, rfl⟩, .inr ⟨rfl, rfl, rfl⟩, rfl⟩

/-- A state with ENC_FRAME pending meets the invariant, and its step goes on. -/
theorem witness_StepKeepsInvariant :
    let s : State := { clipState with pending := some 6 }
    s.Inv ∧ ∃ t, step s = .next t :=
  ⟨{ nMax := clipState_inv.nMax, buffers := clipState_inv.buffers
     accepted := clipState_inv.accepted, derived := clipState_inv.derived
     units := clipState_inv.units, noError := clipState_inv.noError
     someError := clipState_inv.someError, pendingNotDone := fun _ => rfl }, _, rfl⟩

/-- The least and the greatest N_MAX. -/
theorem witness_ResetMeetsInvariant :
    Config.legalNMax (8#32).toNat = true ∧ Config.legalNMax (0x200000#32).toNat = true := by decide

theorem witness_HardResetAtAnyTime :
    let s : State := { clipState with pending := some 6, turns := [.rst, .host] }
    s.turns = .rst :: [.host] := by decide

/-- Both ways of being illegal, at the boundary of each. -/
theorem witness_IllegalCommandIsRecorded :
    ((0x8#32).toNat / 256 ≠ 0 ∨ 8 ≤ (0x8#32).toNat % 256) ∧
      ((0x100#32).toNat / 256 ≠ 0 ∨ 8 ≤ (0x100#32).toNat % 256) := by decide

theorem tinyRegs_accepted : tinyRegs.Accepted where
  bps := by decide
  channels := ⟨0, by decide⟩
  station := by decide
  frameLength := by decide
  spf := by decide
  version := by decide
  thread := by decide
  policy := by decide
  layout := by decide

theorem witness_CommitAcceptsValidConfiguration :
    Config.legalNMax tiny.nMax = true ∧ tiny.regs.Accepted := ⟨by decide, tinyRegs_accepted⟩

/-- For each of the nine checks, a configuration in which it is the lowest that fails. -/
theorem witness_CommitRejectsInvalidConfiguration :
    ∀ i, 1 ≤ i → i ≤ 9 →
      (failing i).CheckFails i ∧ ∀ j, j < i → ¬ (failing i).CheckFails j := by
  intro i h1 h9
  obtain ⟨k, rfl⟩ : ∃ k, i = k + 1 := ⟨i - 1, by omega⟩
  have hk : k < 9 := by omega
  have hmask : ∀ k, k < 9 → (failing (k + 1)).checkMask.getLsbD k = true ∧
      ∀ j, j < k → (failing (k + 1)).checkMask.getLsbD j = false := by decide +kernel
  refine ⟨(Regs.getLsbD_checkMask_iff _ hk).mp (hmask k hk).1, ?_⟩
  intro j hj
  cases j with
  | zero => exact fun h => h
  | succ j =>
    rw [← Regs.getLsbD_checkMask_iff _ (by omega), (hmask k hk).2 j (by omega)]
    decide

/-- Two states of one configuration that differ in everything else. -/
theorem witness_CommitDependsOnConfigurationOnly :
    let s := tiny
    let r : State := { errorState with regs := { errorState.regs with epochSeconds := 5 } }
    r.regs.nMaxReg = s.regs.nMaxReg ∧ r.regs.cfgSpf = s.regs.cfgSpf ∧
      r.regs.cfgBps = s.regs.cfgBps ∧ r.regs.cfgChannels = s.regs.cfgChannels ∧
      r.regs.cfgThreadId = s.regs.cfgThreadId ∧ r.regs.cfgStationId = s.regs.cfgStationId ∧
      r.regs.cfgVdifVersion = s.regs.cfgVdifVersion ∧ r.regs.cfgMode = s.regs.cfgMode ∧
      exec .cfgCommit s = .next (after .cfgCommit s) ∧
      exec .cfgCommit r = .next (after .cfgCommit r) :=
  ⟨rfl, rfl, rfl, rfl, rfl, rfl, rfl, rfl, rfl, rfl⟩

/-- A register file for each clause's hypotheses. -/
theorem witness_FrameLengthCheckBySampleCount :
    (Regs.reset 65536).cfgBps = 2 ∧ (Regs.reset 65536).cfgSpf = 20000 ∧
      ({ Regs.reset 65536 with cfgSpf := 20001 } : Regs).cfgSpf = 20001 ∧
      ({ Regs.reset 65536 with cfgSpf := 20001 } : Regs).cfgBps = 2 ∧
      ({ Regs.reset 65536 with cfgBps := 1 } : Regs).cfgBps = 1 ∧ tinyRegs.cfgBps = 8 := by decide

theorem witness_AcceptedFrameSizesAreBounded :
    committed.Inv ∧ committed.regs.cfgValid = true := ⟨committed_inv, by decide⟩

theorem witness_EncodeNeedsValidConfiguration :
    Instr.encHdr ∈ [Instr.encHdr, .quantize, .pack, .assemble, .encFrame] ∧
      Instr.encFrame ∈ [Instr.encHdr, .quantize, .pack, .assemble, .encFrame] ∧
      State.reset.regs.cfgValid = false := by decide

theorem witness_FirstErrorIsKept :
    Instr.illegal 8 ≠ .softReset ∧
      exec (.illegal 8) errorState = .next (after (.illegal 8) errorState) ∧
      errorState.regs.err = true ∧ errorState.regs.errMulti = true :=
  ⟨by decide, rfl, by decide, by decide⟩

/-- A commit that fails from no error, a sample that fails, and a command that fails while ERR and
ERR_MULTI are 1. -/
theorem witness_FailuresArePrecise :
    let s : State := { committed with regs := { committed.regs with cfgBps := 0 } }
    (exec .cfgCommit s = .next (after .cfgCommit s) ∧ s.CommandFails .cfgCommit ∧
      s.regs.err = false ∧ (after .cfgCommit s).regs.err = true) ∧
      (exec .quantize infState = .next (after .quantize infState) ∧
        infState.CommandFails .quantize ∧ infState.regs.err = false ∧
        (after .quantize infState).regs.err = true) ∧
      exec (.illegal 8) errorState = .next (after (.illegal 8) errorState) ∧
        errorState.CommandFails (.illegal 8) ∧ errorState.regs.err = true :=
  ⟨⟨rfl, fun h => absurd h.bps (by decide), by decide, by decide +kernel⟩,
    ⟨rfl, .inr infState_not_finiteSamples, by decide +kernel, by decide +kernel⟩,
    rfl, trivial, by decide⟩

/-- Each command that can fail does so somewhere, the gate and the sample check apart. -/
theorem witness_EachCommandReportsItsCodes :
    let s : State := { tiny with regs := { tinyRegs with cfgBps := 0 } }
    (after .cfgCommit s).regs.err = true ∧ (after (.illegal 8) s).regs.err = true ∧
      (after .encHdr s).regs.err = true ∧ (after .pack s).regs.err = true ∧
      (after .assemble s).regs.err = true ∧ (after .quantize s).regs.err = true ∧
      (after .encFrame s).regs.err = true ∧ (after .quantize infState).regs.err = true ∧
      (after .encFrame infState).regs.err = true ∧ s.regs.err = false ∧
      infState.regs.err = false := by decide +kernel

/-- A changed cell in each of the four buffers a command can change. -/
theorem witness_CommandsWriteOnlyTheirBuffers :
    ((after .encHdr committed).buf .hdr).read 0 ≠ (committed.buf .hdr).read 0 ∧
      ((after .quantize clipState).buf .code).read 7 ≠ (clipState.buf .code).read 7 ∧
      ((after .pack codedState).buf .pay).read 7 ≠ (codedState.buf .pay).read 7 ∧
      ((after .assemble partsState).buf .frame).read 39 ≠ (partsState.buf .frame).read 39 := by
  decide +kernel

theorem witness_CommandsKeepHostRegisters :
    Instr.encHdr ≠ .softReset ∧ Instr.encHdr ≠ .cfgCommit ∧
      exec .encHdr (headerState 2) = .next (after .encHdr (headerState 2)) :=
  ⟨by decide, by decide, rfl⟩

theorem witness_CompletionRaisesInterrupt :
    Instr.nop ≠ .softReset ∧ exec .nop errorState = .next (after .nop errorState) :=
  ⟨by decide, rfl⟩

/-- The last byte of a sample; a finite word, a subnormal and an infinity. -/
theorem witness_SampleValuesAreBinary64 :
    7 < 8 ∧ isFinite64 0x3FF8000000000000#64 = true ∧
      isFinite64 0x0000000000000001#64 = true ∧ isFinite64 0x7FF0000000000000#64 = false := by
  decide

theorem witness_QuantizeClipFloor :
    clipState.Inv ∧ clipState.regs.cfgValid = true ∧
      clipState.regs.cfgMode.getLsbD 0 = false ∧ clipState.FiniteSamples :=
  ⟨clipState_inv, by decide +kernel, by decide +kernel, clipState_finite⟩

theorem witness_QuantizePercentile :
    ∃ y : List ℚ, pctState.Inv ∧ pctState.regs.cfgValid = true ∧
      pctState.regs.cfgMode.getLsbD 0 = true ∧ pctState.FiniteSamples ∧
      y.Perm ((List.range pctState.regs.cfgSpf.toNat).map
        fun i => exactValue (pctState.sampleWord i)) ∧
      y.Pairwise (· ≤ ·) :=
  ⟨_, pctState_inv, by decide +kernel, by decide +kernel, pctState_finite,
    List.perm_insertionSort (· ≤ ·) _, List.pairwise_insertionSort (· ≤ ·) _⟩

theorem witness_NonfiniteSampleFails :
    infState.regs.cfgValid = true ∧ 7 < infState.regs.cfgSpf.toNat ∧
      isFinite64 (infState.sampleWord 7) = false :=
  ⟨by decide +kernel, by decide +kernel, infState_not_finite⟩

theorem witness_ThresholdsAscend : [(1 : ℚ), 2] ≠ [] := by simp

/-- Equal samples, rising samples, and the least one. -/
theorem witness_PercentileCodesFollowSamples :
    let v : List ℚ := [1, 1, 2]
    v[0] ≤ v[1] ∧ v[1] ≤ v[2] ∧ ∀ x ∈ v, v[0] ≤ x := by norm_num

/-- `s` with other codes and an error recorded. -/
def withOtherCodes (s : State) : State :=
  { s with code := cellsFrom 0 [9], regs := { s.regs with err := true, errCode := 0x10 } }

/-- Two states of the same samples, codes and error record apart: of finite samples, and of samples
one of which is infinite. -/
theorem witness_QuantizerIsPure :
    ∀ s ∈ [clipState, infState],
      s.regs.cfgValid = true ∧ (withOtherCodes s).regs.cfgValid = true ∧
      (withOtherCodes s).regs.cfgSpf = s.regs.cfgSpf ∧
      (withOtherCodes s).regs.cfgBps = s.regs.cfgBps ∧
      (withOtherCodes s).regs.cfgMode.getLsbD 0 = s.regs.cfgMode.getLsbD 0 ∧
      (∀ i, i < s.regs.cfgSpf.toNat → (withOtherCodes s).sampleWord i = s.sampleWord i) ∧
      exec .quantize s = .next (after .quantize s) ∧
      exec .quantize (withOtherCodes s) = .next (after .quantize (withOtherCodes s)) := by
  intro s hs
  simp only [List.mem_cons, List.not_mem_nil, or_false] at hs
  rcases hs with rfl | rfl <;>
    exact ⟨by decide +kernel, by decide +kernel, rfl, rfl, rfl, fun _ _ => rfl,
      exec_after (by decide +kernel), exec_after (by decide +kernel)⟩

theorem witness_PackWritesBitStream :
    committed.Inv ∧ committed.regs.cfgValid = true ∧
      63 < 8 * ((committed.regs.cfgSpf.toNat * committed.regs.cfgBps.toNat + 7) / 8) ∧
      (committed.regs.cfgSpf.toNat * committed.regs.cfgBps.toNat + 7) / 8 ≤ 8 :=
  ⟨committed_inv, by decide, by decide, by decide⟩

/-- The least and the greatest width that divides 8, at the first and the last byte of two. -/
theorem witness_PackGroupsWholeBytes :
    (1 ∈ [1, 2, 4, 8] ∧ 0 < 2) ∧ 8 ∈ [1, 2, 4, 8] ∧ 1 < 2 := by decide

/-- The narrowest and the widest code, each with a payload that just holds the codes. -/
theorem witness_UnpackInvertsPack :
    (1 ≤ 1 ∧ 1 ≤ 8 ∧ [1#8, 0, 1].length * 1 ≤ 8 * 1) ∧
      (1 ≤ 8 ∧ 8 ≤ 8 ∧ [0x12#8, 0xFE].length * 8 ≤ 8 * 2) := by decide

/-- Both settings of SECMODE. -/
theorem witness_EncodeHeaderWritesHeader :
    ((headerState 0).Inv ∧ (headerState 0).regs.cfgValid = true ∧
      (headerState 0).regs.cfgMode.getLsbD 1 = false) ∧
      (headerState 2).Inv ∧ (headerState 2).regs.cfgValid = true ∧
        (headerState 2).regs.cfgMode.getLsbD 1 = true :=
  ⟨⟨headerState_inv_raw, by decide, by decide⟩, headerState_inv_offset, by decide, by decide⟩

theorem witness_SecondsFieldFitsThirtyBits :
    (headerState 2).regs.cfgValid = true ∧ (headerState 2).regs.cfgMode.getLsbD 1 = true ∧
      (headerState 0).regs.cfgValid = true := by decide

/-- The first and the last second of the range. -/
theorem witness_HalfYearBracketsSecond :
    (0 ≤ (0 : ℤ) ∧ (0 : ℤ) < 2 ^ 32) ∧ 0 ≤ (4294967295 : ℤ) ∧ (4294967295 : ℤ) < 2 ^ 32 := by
  decide

/-- The whole range of seconds, and the first and last half-year start. -/
theorem witness_RefEpochIsMonotone :
    (0 ≤ (0 : ℤ) ∧ (0 : ℤ) ≤ 4294967295 ∧ (4294967295 : ℤ) < 2 ^ 32) ∧
      (-60 < (-59 : ℤ) ∧ (-59 : ℤ) ≤ 212) ∧ -60 < (212 : ℤ) ∧ (212 : ℤ) ≤ 212 := by decide

theorem witness_CalendarRoundTrip :
    (0 ≤ (0 : ℤ) ∧ (0 : ℤ) ≤ 49710) ∧ 0 ≤ (49710 : ℤ) ∧ (49710 : ℤ) ≤ 49710 := by decide

theorem witness_RefEpochFieldWraps :
    (946684800 ≤ (946684800 : ℤ) ∧ (946684800 : ℤ) < 1956528000) ∧
      946684800 ≤ (1956527999 : ℤ) ∧ (1956527999 : ℤ) < 1956528000 := by decide

theorem witness_AssembleCopiesHeaderAndPayload :
    partsState.regs.cfgValid = true ∧ 7 < partsState.regs.payloadBytes.toNat ∧
      32 + partsState.regs.payloadBytes.toNat ≤ 40 := by decide +kernel

/-- Both clauses: finite samples, and one that is not. -/
theorem witness_EncFrameIsTheChain :
    (clipState.regs.cfgValid = true ∧ clipState.FiniteSamples) ∧
      infState.regs.cfgValid = true ∧ ¬ infState.FiniteSamples :=
  ⟨⟨by decide +kernel, clipState_finite⟩, by decide +kernel, infState_not_finiteSamples⟩

theorem witness_EncFrameLeavesWholeDatagram :
    clipState.Inv ∧ clipState.regs.cfgValid = true ∧ clipState.FiniteSamples :=
  ⟨clipState_inv, by decide +kernel, clipState_finite⟩

theorem witness_EncFrameHasNoDraws :
    clipState.regs.cfgValid = true ∧ clipState.SamplesWritten ∧
      exec .encFrame clipState = .next (after .encFrame clipState) ∧
      exec .encFrame ({ clipState with draws := 9 } : State) =
        .next (after .encFrame { clipState with draws := 9 }) := by
  refine ⟨by decide +kernel, ?_, exec_after (by decide +kernel), exec_after (by decide +kernel)⟩
  show ∀ o, o < 64 → (clipState.samp.read o).isSome = true
  decide +kernel

theorem witness_MisalignedAccessIsRefused :
    (0x1#32).toNat % 4 ≠ 0 ∧ (0x01000003#32).toNat % 4 ≠ 0 := by decide

/-- With N_MAX = 8: a hole among the registers, and the first address past each window. -/
theorem witness_UnmappedAccessIsRefused :
    Config.legalNMax tiny.nMax = true ∧
      [0x18, 0x58, 0xFC, 0x100, 0x0FFC, 0x1020, 0x01000040, 0x02000008, 0x03000008,
        0x04000028].all (fun a : Nat => decide (
        a ∉ [0x00, 0x04, 0x08, 0x0C, 0x10, 0x14, 0x20, 0x24, 0x28, 0x2C, 0x30, 0x34, 0x38, 0x40,
          0x44, 0x48, 0x4C, 0x50, 0x54] ∧
        ¬ (0x1000 ≤ a ∧ a < 0x1000 + 32) ∧
        ¬ (0x01000000 ≤ a ∧ a < 0x01000000 + 8 * tiny.nMax) ∧
        ¬ (0x02000000 ≤ a ∧ a < 0x02000000 + tiny.nMax) ∧
        ¬ (0x03000000 ≤ a ∧ a < 0x03000000 + tiny.nMax) ∧
        ¬ (0x04000000 ≤ a ∧ a < 0x04000000 + (32 + tiny.nMax)))) = true := by
  decide +kernel

/-- With N_MAX = 8: each read-only register, and the first and last word of each read-only
window. -/
theorem witness_ReadOnlyWriteIsRefused :
    Config.legalNMax tiny.nMax = true ∧
      [0x08, 0x0C, 0x14, 0x40, 0x44, 0x48, 0x4C, 0x1000, 0x101C, 0x03000000, 0x03000004,
        0x04000000, 0x04000024].all (fun a : Nat => decide (
        a ∈ [0x08, 0x0C, 0x14, 0x40, 0x44, 0x48, 0x4C] ∨
        (0x1000 ≤ a ∧ a < 0x1000 + 32) ∨
        (0x03000000 ≤ a ∧ a < 0x03000000 + tiny.nMax) ∨
        (0x04000000 ≤ a ∧ a < 0x04000000 + (32 + tiny.nMax)))) = true := by
  decide +kernel

/-- A pending command, an address of a window, and registers at both ends of the window. -/
theorem witness_BusyAccessRules :
    let s : State := { committed with pending := some 6 }
    s.pending = some 6 ∧ 0x100 ≤ (0x01000000#32).toNat ∧ (0x00#32).toNat < 0x100 ∧
      (0x00#32).toNat ≠ 0x04 ∧ (0x54#32).toNat < 0x100 ∧ (0x54#32).toNat ≠ 0x04 := by decide

/-- Both clauses: idle and busy. -/
theorem witness_CommandWriteStartsCommand :
    committed.pending = none ∧ ({ committed with pending := some 6 } : State).pending ≠ none := by
  decide

theorem witness_StatusWriteClearsFlags : errorState.pending = none := by decide

theorem witness_ConfigWriteClearsValid : committed.pending = none := by decide

theorem witness_PlainWriteOnlyStores : committed.pending = none := by decide

/-- With N_MAX = 8: the first and the last word of each host-writable window. -/
theorem witness_BufferWordReadsBack :
    Config.legalNMax committed.nMax = true ∧ committed.pending = none ∧
      (0 % 4 = 0 ∧ 0 < 8 * committed.nMax) ∧ (60 % 4 = 0 ∧ 60 < 8 * committed.nMax) ∧
      (0 % 4 = 0 ∧ 0 < committed.nMax) ∧ 4 % 4 = 0 ∧ 4 < committed.nMax := by decide

/-- With N_MAX = 8: the last word of each of the five windows, cells written and never written. -/
theorem witness_UnwrittenCellsReadAsDraws :
    Config.legalNMax partsState.nMax = true ∧ partsState.pending = none ∧
      (28 % 4 = 0 ∧ 28 + 4 ≤ BufName.hdr.size partsState.nMax) ∧
      (60 % 4 = 0 ∧ 60 + 4 ≤ BufName.samp.size partsState.nMax) ∧
      (4 % 4 = 0 ∧ 4 + 4 ≤ BufName.code.size partsState.nMax) ∧
      (4 % 4 = 0 ∧ 4 + 4 ≤ BufName.pay.size partsState.nMax) ∧
      (36 % 4 = 0 ∧ 36 + 4 ≤ BufName.frame.size partsState.nMax) ∧
      partsState.hdr.read 31 = some 131 ∧ partsState.pay.read 7 = some 0xC6 ∧
      partsState.samp.read 63 = none ∧ partsState.code.read 7 = none ∧
      partsState.frame.read 39 = none := by
  decide +kernel

/-- `wait` while a command is pending, by a listed turn, and while idle, by both ways the host
moves. -/
theorem witness_WaitEndsWhenNotBusy :
    let s : State := { committed with turns := [.host], program := [.wait, .rd 0x08] }
    let r : State := { s with pending := some 1 }
    let q : State := { s with turns := [] }
    (s.HostMoves [] ∧ s.program = .wait :: [.rd 0x08] ∧ s.pending = none) ∧
      (r.HostMoves [] ∧ r.program = .wait :: [.rd 0x08] ∧ r.pending ≠ none) ∧
      q.HostMoves [] ∧ q.program = .wait :: [.rd 0x08] :=
  ⟨⟨.inl rfl, rfl, rfl⟩, ⟨.inl rfl, rfl, by decide⟩, .inr ⟨rfl, rfl, rfl⟩, rfl⟩

end Sys2Proof.Tests
end

section
/-! Sizes and the machine invariant: what a legal N_MAX and an accepted configuration bound
(00_scope.md R8, R10), and that every step keeps `State.Inv`. -/

namespace Sys2Proof.Machine

variable {s t : State} {r q : Regs}

/-! ### Sizes -/

theorem legalNMax_le {n : Nat} (h : Config.legalNMax n = true) : n ≤ 2 ^ 21 := by
  simp only [Config.legalNMax, Bool.and_eq_true, decide_eq_true_eq] at h
  exact h.2

/-- An accepted payload fits PAY: at most 8 bits for each of at most N_MAX samples
(00_scope.md R10). -/
theorem Regs.Accepted.payloadSize_le (h : r.Accepted) : r.payloadSize ≤ r.nMaxReg.toNat := by
  have hbits : r.spf * r.bps ≤ r.nMaxReg.toNat * 8 := Nat.mul_le_mul h.spf.2 h.bps.2
  unfold Regs.payloadSize
  omega

/-- A configuration whose mask is 0 passed all nine checks (40_config.md R133). -/
theorem Regs.accepted_of_checkMask_eq_zero (h : r.checkMask = 0) : r.Accepted := by
  have pass (i : Nat) (hi : i < 9) : ¬ r.CheckFails (i + 1) := r.checkMask_eq_zero_iff.mp h i hi
  have h1 := pass 0 (by decide)
  have h2 := pass 1 (by decide)
  have h3 := pass 2 (by decide)
  have h4 := pass 3 (by decide)
  have h5 := pass 4 (by decide)
  have h6 := pass 5 (by decide)
  have h7 := pass 6 (by decide)
  have h8 := pass 7 (by decide)
  have h9 := pass 8 (by decide)
  simp only [Regs.CheckFails, not_or, not_and, not_not] at h1 h2 h3 h4 h5 h6 h7 h8 h9
  exact {
    bps := by omega
    channels := (isPowerOfTwo_iff_le _).mp ((isPowerOfTwo_iff _).mpr h2)
    station := by omega
    frameLength := h4
    spf := by omega
    version := by omega
    thread := by omega
    policy := h8
    layout := h9 }

/-- Under the invariant a validated configuration is within the buffers' sizes (00_scope.md R10). -/
theorem State.Inv.spf_le (h : s.Inv) (hv : s.regs.cfgValid = true) : s.regs.spf ≤ s.nMax :=
  (h.accepted hv).spf.2

theorem State.Inv.payloadLength_le (h : s.Inv) (hv : s.regs.cfgValid = true) :
    s.regs.payloadLength ≤ s.nMax := by
  have hp : s.regs.payloadLength = s.regs.payloadSize := (h.derived hv).payload
  exact hp ▸ (h.accepted hv).payloadSize_le

/-- Settles O19: the invariant's clauses bound the sample count and the payload, and the units
follow from FRAME_BYTES. -/
theorem acceptedFrameSizesAreBounded : Obligations.AcceptedFrameSizesAreBounded := by
  intro s h hv
  have hn : s.nMax ≤ 2 ^ 21 := legalNMax_le h.nMax
  have hp : s.regs.payloadBytes.toNat ≤ s.nMax := h.payloadLength_le hv
  have hf : s.regs.frameBytes.toNat = 32 + s.regs.payloadBytes.toNat := (h.derived hv).frame
  have hu := h.units
  exact ⟨h.spf_le hv, hn, hp, by omega, by omega, hu.symm, hf⟩

/-! ### The registers' part of the invariant -/

/-- The clauses of `State.Inv` that speak of the registers alone. -/
structure Regs.Consistent (r : Regs) : Prop where
  accepted : r.cfgValid = true → r.Accepted
  derived : r.cfgValid = true → r.Derived
  units : r.frameBytes.toNat = r.frameLengthUnits.toNat * 8
  noError : r.err = false → r.errCode = 0 ∧ r.errMulti = false
  someError : r.err = true → ∃ e : CmdError, r.errCode = e.code

/-- The invariant by its four parts: N_MAX, the buffers, the registers, the pending command. -/
theorem State.inv_iff :
    s.Inv ↔ Config.legalNMax s.nMax = true ∧
      (∀ b, (s.buf b).wf ∧ (s.buf b).within (b.size s.nMax)) ∧
      s.regs.Consistent ∧ (s.pending.isSome = true → s.regs.done = false) :=
  ⟨fun ⟨hn, hb, ha, hd, hu, hne, hse, hp⟩ => ⟨hn, hb, ⟨ha, hd, hu, hne, hse⟩, hp⟩,
    fun ⟨hn, hb, ⟨ha, hd, hu, hne, hse⟩, hp⟩ => ⟨hn, hb, ha, hd, hu, hne, hse, hp⟩⟩

theorem State.Inv.consistent (h : s.Inv) : s.regs.Consistent := (State.inv_iff.mp h).2.2.1

namespace Regs.Consistent

/-- Without a valid configuration only the units and the error record are left to say. -/
theorem of_invalid (hv : r.cfgValid = false)
    (hu : r.frameBytes.toNat = r.frameLengthUnits.toNat * 8)
    (hne : r.err = false → r.errCode = 0 ∧ r.errMulti = false)
    (hse : r.err = true → ∃ e : CmdError, r.errCode = e.code) : r.Consistent where
  accepted h := absurd h (by simp [hv])
  derived h := absurd h (by simp [hv])
  units := hu
  noError := hne
  someError := hse

theorem reset (n : Word) : (Regs.reset n).Consistent :=
  of_invalid rfl rfl (fun _ => ⟨rfl, rfl⟩) nofun

/-- DONE and the registers that no clause names may take any value, the error record any
consistent one. -/
theorem setStatus (h : r.Consistent) {d e m : Bool} {c : Byte} {ie : BitVec 2} {es fn : Word}
    (hne : e = false → c = 0 ∧ m = false) (hse : e = true → ∃ e' : CmdError, c = e'.code) :
    ({ r with
        done := d, err := e, errMulti := m, errCode := c
        irqEn := ie, epochSeconds := es, frameNumber := fn } : Regs).Consistent where
  accepted hv := { h.accepted hv with }
  derived hv := { h.derived hv with }
  units := h.units
  noError := hne
  someError := hse

theorem setDone (h : r.Consistent) (d : Bool) : ({ r with done := d } : Regs).Consistent :=
  h.setStatus h.noError h.someError

/-- A failure records its own code or keeps the one recorded (60_exceptions.md R256, R257). -/
theorem failedWith (h : r.Consistent) (e : CmdError) : (r.failedWith e.code).Consistent := by
  refine h.setStatus nofun fun _ => ?_
  cases he : r.err with
  | false => exact ⟨e, rfl⟩
  | true => exact h.someError he

/-- A STATUS write clears an error with its code and ERR_MULTI, or keeps the code
(10_state.md R24). -/
theorem writeStatus (h : r.Consistent) (v : Word) : (r.writeStatus v).Consistent := by
  rw [Regs.writeStatus_eq]
  cases v.getLsbD 3 with
  | true => exact h.setStatus (fun _ => by simp) (by simp)
  | false =>
    refine h.setStatus (fun he => ?_) (fun he => ?_)
    · simp [h.noError (by simpa using he)]
    · simpa using h.someError (by simpa using he)

/-- A CFG write clears CFG_VALID (10_state.md R43), so what it stores is not constrained. -/
theorem unvalidated (h : r.Consistent) (spf ch : Word) (bps ver : BitVec 8) (th st : BitVec 16)
    (mode : BitVec 4) :
    ({ r.unvalidated with
        cfgSpf := spf, cfgBps := bps, cfgChannels := ch, cfgThreadId := th, cfgStationId := st
        cfgVdifVersion := ver, cfgMode := mode } : Regs).Consistent :=
  of_invalid rfl h.units h.noError h.someError

/-- Every accepted register write keeps the clauses (20_memory.md R63). -/
theorem write (h : r.Consistent) {off : Nat} {v : Word} (hw : r.write off v = some q) :
    q.Consistent := by
  rcases Regs.write_cases hw with
    ⟨-, rfl⟩ | ⟨-, rfl⟩ | ⟨-, rfl⟩ | ⟨-, rfl⟩ | ⟨-, rfl⟩ | ⟨-, rfl⟩ | ⟨-, rfl⟩ | ⟨-, rfl⟩ |
      ⟨-, rfl⟩ | ⟨-, rfl⟩ | ⟨-, rfl⟩
  · exact h.writeStatus v
  · exact h.setStatus h.noError h.someError
  iterate 7
    · exact h.unvalidated ..
  · exact h.setStatus h.noError h.someError
  · exact h.setStatus h.noError h.someError

/-- A rejected commit zeroes the derived registers (40_config.md R130). -/
theorem rejectConfig (h : r.Consistent) : r.rejectConfig.Consistent :=
  of_invalid rfl rfl h.noError h.someError

end Regs.Consistent

/-- An accepted commit derives registers that fit (40_config.md R130 to R132, R135). -/
theorem Regs.derived_acceptConfig (hn : r.nMaxReg.toNat ≤ 2 ^ 21) (hm : r.checkMask = 0) :
    r.acceptConfig.Derived := by
  have ha := Regs.accepted_of_checkMask_eq_zero hm
  have hsize := ha.payloadSize_le
  obtain ⟨k, hk, hch⟩ := ha.channels
  exact {
    payload := Nat.mod_eq_of_lt (by omega)
    frame := by simp only [Regs.acceptConfig, BitVec.toNat_ofNat]; omega
    channels := by simp [Regs.acceptConfig, hch, Nat.mod_eq_of_lt (show k < 32 by omega)]
    mask := hm }

theorem Regs.Consistent.acceptConfig (h : r.Consistent) (hn : r.nMaxReg.toNat ≤ 2 ^ 21)
    (hm : r.checkMask = 0) : r.acceptConfig.Consistent where
  accepted _ := { Regs.accepted_of_checkMask_eq_zero hm with }
  derived _ := Regs.derived_acceptConfig hn hm
  units := by
    have ha := Regs.accepted_of_checkMask_eq_zero hm
    have hsize := ha.payloadSize_le
    have h8 : (32 + r.payloadSize) % 8 = 0 := ha.frameLength
    simp only [Regs.acceptConfig, BitVec.toNat_ofNat]
    omega
  noError := h.noError
  someError := h.someError

theorem Regs.write_nMaxReg {off : Nat} {v : Word} (hw : r.write off v = some q) :
    q.nMaxReg = r.nMaxReg := by
  rcases Regs.write_cases hw with
    ⟨-, rfl⟩ | ⟨-, rfl⟩ | ⟨-, rfl⟩ | ⟨-, rfl⟩ | ⟨-, rfl⟩ | ⟨-, rfl⟩ | ⟨-, rfl⟩ | ⟨-, rfl⟩ |
      ⟨-, rfl⟩ | ⟨-, rfl⟩ | ⟨-, rfl⟩
  · rw [Regs.writeStatus_eq]
  all_goals rfl

/-! ### Each state operation keeps the invariant -/

namespace State.Inv

/-- The invariant does not see draws, turns, program or replies. -/
theorem of_sameMachine (h : s.Inv) (hr : t.regs = s.regs) (hp : t.pending = s.pending)
    (hb : ∀ b, t.buf b = s.buf b) : t.Inv := by
  have hn : t.nMax = s.nMax := congrArg (·.nMaxReg.toNat) hr
  rw [State.inv_iff, hr, hp, hn]
  simp only [hb]
  exact State.inv_iff.mp h

theorem drew (h : s.Inv) (n : Nat) : (s.drew n).Inv :=
  h.of_sameMachine rfl rfl (s.buf_drew n)

theorem noteReply (h : s.Inv) (rep : Reply) : (s.noteReply rep).Inv :=
  h.of_sameMachine rfl rfl (s.buf_noteReply rep)

theorem setProgram (h : s.Inv) (p : List HostOp) : ({ s with program := p } : State).Inv :=
  h.of_sameMachine rfl rfl (s.buf_withProgram p)

theorem setTurns (h : s.Inv) (ts : List Turn) : ({ s with turns := ts } : State).Inv :=
  h.of_sameMachine rfl rfl (s.buf_withTurns ts)

/-- Consistent registers with the same N_MAX, that keep DONE clear while a command is pending. -/
theorem setRegs (h : s.Inv) (hr : r.Consistent) (hn : r.nMaxReg = s.regs.nMaxReg)
    (hd : s.pending.isSome = true → r.done = false) : (s.setRegs r).Inv := by
  have hnMax : (s.setRegs r).nMax = s.nMax := congrArg BitVec.toNat hn
  refine State.inv_iff.mpr ⟨hnMax ▸ h.nMax, fun b => ?_, hr, hd⟩
  rw [hnMax, State.buf_setRegs]
  exact h.buffers b

theorem complete (h : s.Inv) : s.complete.Inv :=
  State.inv_iff.mpr
    ⟨h.nMax, fun b => s.buf_complete b ▸ h.buffers b, h.consistent.setDone true, nofun⟩

theorem fail (h : s.Inv) (e : CmdError) : (s.fail e).Inv := by
  have hr : (s.fail e).regs = s.regs.failedWith e.code := s.regs.recordError_done e
  have hn : (s.fail e).nMax = s.nMax := congrArg (·.nMaxReg.toNat) hr
  refine State.inv_iff.mpr ⟨hn ▸ h.nMax, fun b => ?_, hr ▸ h.consistent.failedWith e, nofun⟩
  rw [hn, State.buf_fail]
  exact h.buffers b

theorem acceptCommand (h : s.Inv) (w : Word) : (s.acceptCommand w).Inv :=
  State.inv_iff.mpr
    ⟨h.nMax, fun b => s.buf_acceptCommand w b ▸ h.buffers b, h.consistent.setDone false,
      fun _ => rfl⟩

theorem hardReset (h : s.Inv) : s.hardReset.Inv := by
  refine State.inv_iff.mpr ⟨h.nMax, fun b => ?_, .reset _, nofun⟩
  rw [State.buf_hardReset]
  exact ⟨.nil, nofun⟩

theorem writeBytes (h : s.Inv) {b : BufName} {o : Nat} {bs : List Byte}
    (hb : o + bs.length ≤ b.size s.nMax) : (s.writeBytes b o bs).Inv := by
  have hn : (s.writeBytes b o bs).nMax = s.nMax :=
    congrArg (·.nMaxReg.toNat) (s.writeBytes_regs b o bs)
  rw [State.inv_iff, hn, State.writeBytes_regs, State.writeBytes_pending]
  refine ⟨h.nMax, fun c => ?_, h.consistent, h.pendingNotDone⟩
  by_cases hc : c = b
  · subst hc
    rw [State.buf_writeBytes_self]
    exact ⟨Memory.wf_writeRange (h.buffers c).1 o bs,
      Memory.within_writeRange (h.buffers c).2 o bs hb⟩
  · rw [State.buf_writeBytes_ne _ _ _ hc]
    exact h.buffers c

/-! ### The parts of a frame's encoding fit their buffers -/

theorem writeHeader (h : s.Inv) : s.writeHeader.Inv :=
  h.writeBytes (by simp [BufName.size])

theorem writeCodes (h : s.Inv) (hv : s.regs.cfgValid = true) {codes : List Byte}
    (hq : s.quantizeFrame = some codes) : (s.writeCodes codes).Inv := by
  refine (h.drew _).writeBytes ?_
  rw [s.length_quantizeFrame hq, Nat.zero_add]
  exact h.spf_le hv

theorem writePayload (h : s.Inv) (hv : s.regs.cfgValid = true) : s.writePayload.Inv := by
  refine (h.drew _).writeBytes ?_
  rw [State.length_packCodes, Nat.zero_add]
  exact h.payloadLength_le hv

theorem writeFrame (h : s.Inv) (hv : s.regs.cfgValid = true) : s.writeFrame.Inv := by
  refine (h.drew _).writeBytes ?_
  rw [State.length_assembledBytes, Nat.zero_add]
  exact Nat.add_le_add_left (h.payloadLength_le hv) 32

/-! ### Commands, host accesses and steps -/

/-- Every command keeps the invariant. -/
theorem exec (h : s.Inv) {i : Instr} (he : exec i s = .next t) : t.Inv := by
  rcases exec_cases he with
    ⟨-, rfl⟩ | ⟨-, rfl⟩ | ⟨w, -, rfl⟩ | ⟨-, hm, rfl⟩ | ⟨-, -, rfl⟩ | ⟨-, -, rfl⟩ | ⟨-, -, -, rfl⟩ |
      ⟨-, -, rfl⟩ | ⟨-, hv, rfl⟩ | ⟨-, hv, rfl⟩ | ⟨codes, -, hv, hq, rfl⟩ | ⟨codes, -, hv, hq, rfl⟩
  · exact h.complete
  · exact (h.setRegs (.reset _) rfl fun _ => rfl).complete
  · exact h.fail _
  · exact (h.setRegs (h.consistent.acceptConfig (legalNMax_le h.nMax) hm) rfl
      h.pendingNotDone).complete
  · exact (h.setRegs h.consistent.rejectConfig rfl h.pendingNotDone).fail _
  · exact h.fail _
  · exact (h.drew _).fail _
  · exact h.writeHeader.complete
  · exact (h.writePayload hv).complete
  · exact (h.writeFrame hv).complete
  · exact (h.writeCodes hv hq).complete
  · have hp := (h.writeCodes hv hq).writePayload (by simpa using hv)
    exact (hp.writeHeader.writeFrame (by simpa using hv)).complete

/-- Every host write keeps the invariant: an accepted one finds nothing pending and lies inside its
window. -/
theorem memWrite (h : s.Inv) (a v : Word) : (s.memWrite a v).2.Inv := by
  obtain ⟨resp, t, ht⟩ : ∃ resp t, s.memWrite a v = (resp, t) := ⟨_, _, rfl⟩
  rw [ht]
  rcases State.memWrite_cases ht with
    ⟨-, rfl⟩ | ⟨-, -, -, rfl⟩ | ⟨r, -, hidle, -, -, hw, rfl⟩ | ⟨b, -, -, -, hb, -, rfl⟩
  · exact h
  · exact h.acceptCommand v
  · exact h.setRegs (h.consistent.write hw) (Regs.write_nMaxReg hw)
      fun hp => absurd (hidle.symm.trans hp) (by decide)
  · have hin := bufferAt_covers hb
    refine h.writeBytes ?_
    rw [length_wordBytes]
    omega

theorem hostRead (h : s.Inv) (a : Word) : (s.hostRead a).Inv := (h.drew 4).noteReply _

theorem hostWrite (h : s.Inv) (a v : Word) : (s.hostWrite a v).Inv := (h.memWrite a v).noteReply _

theorem hostTurn (h : s.Inv) : s.hostTurn.Inv := by
  rcases State.hostTurn_cases (rfl : s.hostTurn = _) with
    ⟨-, ht⟩ | ⟨a, p, -, ht⟩ | ⟨a, v, p, -, ht⟩ | ⟨p, -, ht | ht⟩ <;> rw [ht]
  · exact h
  · exact (h.setProgram p).hostRead a
  · exact (h.setProgram p).hostWrite a v
  · exact h.hostRead _
  · exact (h.setProgram p).hostRead _

end State.Inv

/-- Settles O8: a step is a command's execution, a host access, the reset input or nothing, and
each keeps the invariant. -/
theorem stepKeepsInvariant : Obligations.StepKeepsInvariant := by
  intro s t h hs
  obtain ⟨ts, ⟨w, -, he⟩ | rfl | rfl | rfl⟩ := step_cases hs
  · exact (h.setTurns ts).exec he
  · exact h.setTurns ts
  · exact (h.setTurns ts).hostTurn
  · exact (h.setTurns ts).hardReset

end Sys2Proof.Machine
end

section
/-! What a command changes and keeps: the buffer it writes (10_state.md R44 to R48), the registers
the host writes (R27 to R41), and the interrupt line after it (R51). -/

namespace Sys2Proof.Machine

variable {s t : State} {i : Instr}

/-! ### Buffers -/

/-- The buffers a command leaves as they were: all five, all but the one it writes, or, after
ENC_FRAME, SAMP at least. -/
theorem exec_buf_cases (h : exec i s = .next t) :
    (∀ b, t.buf b = s.buf b) ∨
      (i = .encHdr ∧ ∀ b, b ≠ .hdr → t.buf b = s.buf b) ∨
      (i = .quantize ∧ ∀ b, b ≠ .code → t.buf b = s.buf b) ∨
      (i = .pack ∧ ∀ b, b ≠ .pay → t.buf b = s.buf b) ∨
      (i = .assemble ∧ ∀ b, b ≠ .frame → t.buf b = s.buf b) ∨
      (i = .encFrame ∧ t.buf .samp = s.buf .samp) := by
  rcases exec_cases h with
    ⟨-, rfl⟩ | ⟨-, rfl⟩ | ⟨w, -, rfl⟩ | ⟨-, -, rfl⟩ | ⟨-, -, rfl⟩ | ⟨-, -, rfl⟩ | ⟨-, -, -, rfl⟩ |
      ⟨hi, -, rfl⟩ | ⟨hi, -, rfl⟩ | ⟨hi, -, rfl⟩ | ⟨codes, hi, -, -, rfl⟩ | ⟨codes, hi, -, -, rfl⟩
  iterate 7
    · exact .inl fun b => by simp
  · exact .inr (.inl ⟨hi, fun b hb => by simp [hb]⟩)
  · exact .inr (.inr (.inr (.inl ⟨hi, fun b hb => by simp [hb]⟩)))
  · exact .inr (.inr (.inr (.inr (.inl ⟨hi, fun b hb => by simp [hb]⟩))))
  · exact .inr (.inr (.inl ⟨hi, fun b hb => by simp [hb]⟩))
  · exact .inr (.inr (.inr (.inr (.inr ⟨hi, by simp⟩))))

/-- Settles O24: a cell that changed lies in the one buffer the command writes, or the command is
ENC_FRAME and the buffer is not SAMP. -/
theorem commandsWriteOnlyTheirBuffers : Obligations.CommandsWriteOnlyTheirBuffers := by
  intro i s t b o h hne
  have changed : t.buf b ≠ s.buf b := fun heq => hne (by rw [heq])
  rcases exec_buf_cases h with hb | ⟨hi, hb⟩ | ⟨hi, hb⟩ | ⟨hi, hb⟩ | ⟨hi, hb⟩ | ⟨hi, hb⟩
  · exact absurd (hb b) changed
  · obtain rfl : b = .hdr := not_imp_comm.mp (hb b) changed
    exact .inl hi
  · obtain rfl : b = .code := not_imp_comm.mp (hb b) changed
    exact .inl hi
  · obtain rfl : b = .pay := not_imp_comm.mp (hb b) changed
    exact .inl hi
  · obtain rfl : b = .frame := not_imp_comm.mp (hb b) changed
    exact .inl hi
  · cases b with
    | samp => exact changed hb
    | hdr | code | pay | frame => exact .inr hi

/-! ### Registers -/

/-- A command other than SOFT_RESET ends with DONE set and otherwise moves only STATUS and ERR_CODE,
of the registers it found or, for CFG_COMMIT, of those with the commit's result written. -/
theorem exec_regs_cases (hi : i ≠ .softReset) (h : exec i s = .next t) :
    ∃ r : Regs, (r = s.regs ∨
        i = .cfgCommit ∧ (r = s.regs.acceptConfig ∨ r = s.regs.rejectConfig)) ∧
      SameConfiguration r t.regs ∧ t.regs.done = true := by
  have failed (r : Regs) (e : CmdError) :
      SameConfiguration r { r.recordError e with done := true } := by
    rw [Regs.recordError_done]; rfl
  rcases exec_cases h with
    ⟨-, rfl⟩ | ⟨hr, -⟩ | ⟨w, -, rfl⟩ | ⟨hc, -, rfl⟩ | ⟨hc, -, rfl⟩ | ⟨-, -, rfl⟩ | ⟨-, -, -, rfl⟩ |
      ⟨-, -, rfl⟩ | ⟨-, -, rfl⟩ | ⟨-, -, rfl⟩ | ⟨codes, -, -, -, rfl⟩ | ⟨codes, -, -, -, rfl⟩
  · exact ⟨_, .inl rfl, rfl, rfl⟩
  · exact absurd hr hi
  · exact ⟨_, .inl rfl, failed _ _, rfl⟩
  · exact ⟨_, .inr ⟨hc, .inl rfl⟩, rfl, rfl⟩
  · exact ⟨_, .inr ⟨hc, .inr rfl⟩, failed _ _, rfl⟩
  · exact ⟨_, .inl rfl, failed _ _, rfl⟩
  · exact ⟨_, .inl rfl, failed _ _, rfl⟩
  iterate 5
    · exact ⟨_, .inl rfl, by simp [SameConfiguration], rfl⟩

/-- Settles O25: what a commit derives is no register the host writes, and completion and failure
move only STATUS and ERR_CODE. -/
theorem commandsKeepHostRegisters : Obligations.CommandsKeepHostRegisters := by
  intro i s t hi h
  obtain ⟨r, hr, hsame, -⟩ := exec_regs_cases hi h
  rw [hsame]
  rcases hr with rfl | ⟨rfl, rfl | rfl⟩
  · exact ⟨rfl, rfl, rfl, rfl, rfl, rfl, rfl, rfl, rfl, rfl, fun _ => rfl⟩
  iterate 2
    · exact ⟨rfl, rfl, rfl, rfl, rfl, rfl, rfl, rfl, rfl, rfl, fun hc => absurd rfl hc⟩

/-- Settles O26: the command has set DONE and kept IRQ_EN. -/
theorem completionRaisesInterrupt : Obligations.CompletionRaisesInterrupt := by
  intro i s t hi h
  obtain ⟨-, -, -, hdone⟩ := exec_regs_cases hi h
  have hirq : t.regs.irqEn = s.regs.irqEn := (commandsKeepHostRegisters i s t hi h).1
  rw [State.irq, hdone, hirq, Bool.true_and]

end Sys2Proof.Machine
end

section
/-! The host's accesses to the registers and reads of the buffers: one rule for each kind of access
(20_memory.md R62, R63), and what each register stores and returns (10_state.md R21 to R43). -/

namespace Sys2Proof.Machine

variable {s : State} {a v : Word}

/-! ### One rule for each kind of access -/

/-- A read of a listed register, a command pending or not (20_memory.md R62, R67). -/
theorem State.memRead_register (haligned : a.toNat % 4 = 0) (hlow : a.toNat < 0x100)
    (hv : s.readRegister a.toNat = some v) : s.memRead a = (.okay, v) := by
  simp [State.memRead, haligned, hlow, hv]

/-- A write to a register that the host may write, while nothing is pending (20_memory.md R63). -/
theorem State.memWrite_register {t : State} (hidle : s.pending = none)
    (haligned : a.toNat % 4 = 0) (hlow : a.toNat < 0x100)
    (ht : s.writeRegister a.toNat v = some t) : s.memWrite a v = (.okay, t) := by
  simp [State.memWrite, State.busy, hidle, haligned, hlow, ht]

/-- While a command is pending every write is refused (20_memory.md R67). -/
theorem State.memWrite_pending (hbusy : s.pending ≠ none) (a v : Word) :
    s.memWrite a v = (.error, s) := by
  simp [State.memWrite, State.busy, Option.isSome_iff_ne_none.mpr hbusy]

/-- An offset in a window, as an address, does not wrap (20_memory.md R61). -/
theorem BufName.toNat_base_add {n o : Nat} (hn : n ≤ 2 ^ 21) (b : BufName) (ho : o < b.size n) :
    (BitVec.ofNat 32 (b.base + o)).toNat = b.base + o := by
  rw [BitVec.toNat_ofNat, Nat.mod_eq_of_lt]
  cases b <;> simp only [BufName.base, BufName.size] at ho ⊢ <;> omega

/-- A read of a buffer while nothing is pending (20_memory.md R62, R68). -/
theorem State.memRead_buffer {b : BufName} {o : Nat} (hn : s.nMax ≤ 2 ^ 21)
    (hidle : s.pending = none) (haligned : o % 4 = 0) (ho : o + 3 < b.size s.nMax) :
    s.memRead (BitVec.ofNat 32 (b.base + o)) = (.okay, s.readWord b o) := by
  have haddr := b.toNat_base_add hn (Nat.lt_of_add_right_lt ho)
  have hwindow : (b.base + o) % 4 = 0 ∧ ¬ b.base + o < 0x100 := by
    cases b <;> simp only [BufName.base] <;> omega
  simp [State.memRead, haddr, hwindow, bufferAt_base_add hn b ho, State.busy, hidle]

/-! ### Reads of buffers -/

/-- Byte j of the word a buffer read returns is the cell j places up (20_memory.md R68). -/
theorem State.extractLsb'_readWord (s : State) (b : BufName) (o : Nat) {j : Nat} (hj : j < 4) :
    (s.readWord b o).extractLsb' (8 * j) 8 = s.readCell b (o + j) j := by
  rw [State.readWord, extractLsb'_wordOfBytes _ _ _ _ hj]
  interval_cases j <;> rfl

/-- Settles O58: the word read holds the four cells, each as its byte or as the draw of its place. -/
theorem unwrittenCellsReadAsDraws : Obligations.UnwrittenCellsReadAsDraws := by
  intro s b o hn hidle haligned ho
  refine ⟨s.readWord b o, State.memRead_buffer (legalNMax_le hn) hidle haligned ho, fun j hj => ?_⟩
  rw [State.extractLsb'_readWord s b o hj]
  cases hcell : (s.buf b).read (o + j) with
  | some c => exact State.readCell_of_some j hcell
  | none => exact State.readCell_of_none j hcell

/-! ### CMD -/

/-- Settles O52: a write to CMD is accepted exactly while nothing is pending. -/
theorem commandWriteStartsCommand : Obligations.CommandWriteStartsCommand := by
  intro s w
  refine ⟨fun hidle => ⟨s.acceptCommand w, ?_, rfl, ?_⟩, fun hbusy => ?_, ?_⟩
  · exact State.memWrite_register hidle rfl (by decide) rfl
  · simp [State.irq]
  · exact State.memWrite_pending hbusy _ w
  · exact State.memRead_register rfl (by decide) rfl

/-! ### STATUS -/

/-- A flag stands at its own bit position alone. -/
theorem getLsbD_flagBit (f : Bool) {n : Nat} (hn : n < 32) (k : Nat) :
    (flagBit f n).getLsbD k = (decide (k = n) && f) := by
  by_cases hk : k = n
  · simp [flagBit, hk, hn]
  · have hoff : k < n ∨ k - n ≠ 0 := by omega
    rcases hoff with hlt | hne
    · simp [flagBit, hk, hlt]
    · simp [flagBit, BitVec.getLsbD_ofBool, hk, hne]

/-- The word STATUS reads, bit by bit (10_state.md R24). -/
theorem State.getLsbD_statusWord (s : State) (k : Nat) :
    s.statusWord.getLsbD k =
      (decide (k = 0) && s.regs.cfgValid || decide (k = 1) && s.busy ||
        decide (k = 2) && s.regs.done || decide (k = 3) && s.regs.err ||
        decide (k = 4) && s.regs.errMulti) := by
  simp [State.statusWord, getLsbD_flagBit]

/-- Settles O53: each flag stands at its bit and BUSY is a pending command. -/
theorem statusReadsItsFlags : Obligations.StatusReadsItsFlags := by
  intro s
  refine ⟨s.statusWord, State.memRead_register rfl (by decide) rfl, ?_⟩
  simp only [State.getLsbD_statusWord]
  refine ⟨by simp, by simp [State.busy, Option.isSome_iff_ne_none], by simp, by simp, by simp,
    fun k hk => ?_⟩
  have hother : k ≠ 0 ∧ k ≠ 1 ∧ k ≠ 2 ∧ k ≠ 3 ∧ k ≠ 4 := by omega
  simp [hother]

/-- Settles O54: the three write-one-to-clear bits of `Regs.writeStatus_eq`. -/
theorem statusWriteClearsFlags : Obligations.StatusWriteClearsFlags := by
  intro s v hidle
  refine ⟨s.setRegs (s.regs.writeStatus v), State.memWrite_register hidle rfl (by decide) rfl, ?_⟩
  rw [Regs.writeStatus_eq]
  exact ⟨by simp only [State.setRegs, Bool.not_or, Bool.and_assoc], rfl⟩

/-! ### The other registers -/

/-- Settles O55: each CFG register stores its own low bits, over a cleared CFG_VALID. -/
theorem configWriteClearsValid : Obligations.ConfigWriteClearsValid := by
  intro s v hidle
  and_intros <;> exact State.memWrite_register hidle rfl (by decide) rfl

/-- Two stored bits read back are the word's low two (10_state.md R27). -/
theorem setWidth_extractLsb'_two (v : Word) : (v.extractLsb' 0 2).setWidth 32 = v &&& 3 := by
  apply BitVec.eq_of_toNat_eq
  have hmask : v.toNat &&& 3 = v.toNat % 4 := Nat.and_two_pow_sub_one_eq_mod v.toNat 2
  have hfits : v.toNat % 4 < 2 ^ 32 := by omega
  simpa [hmask] using hfits

/-- Settles O56: the write stores the register's bits, and the read returns what is stored. -/
theorem plainWriteOnlyStores : Obligations.PlainWriteOnlyStores := by
  intro s v hidle
  refine ⟨⟨_, State.memWrite_register hidle rfl (by decide) rfl, rfl, ?_⟩,
    ⟨_, State.memWrite_register hidle rfl (by decide) rfl, rfl, ?_⟩,
    ⟨_, State.memWrite_register hidle rfl (by decide) rfl, rfl, ?_⟩⟩
  · rw [← setWidth_extractLsb'_two]
    exact State.memRead_register rfl (by decide) rfl
  · exact State.memRead_register rfl (by decide) rfl
  · exact State.memRead_register rfl (by decide) rfl

/-- Reserved bits that read 0 above a register's own (10_state.md R21). -/
theorem zero_append_eq_setWidth {w : Nat} (n : Nat) (x : BitVec w) :
    0#n ++ x = x.setWidth (n + w) := by
  apply BitVec.eq_of_toNat_eq
  simp [BitVec.toNat_setWidth_of_le (Nat.le_add_left w n)]

/-- Settles O60: each register's row of `State.readRegister`. -/
theorem registersReadTheirValues : Obligations.RegistersReadTheirValues := by
  intro s
  simp only [zero_append_eq_setWidth]
  and_intros <;> exact State.memRead_register rfl (by decide) rfl

end Sys2Proof.Machine
end

section
/-! The host port's refusals and buffer writes (20_memory.md R63 to R68), and the two agents' steps
(R75). -/

namespace Sys2Proof.Machine

variable {s : State} {a v : Word}

/-! ### What the port refuses -/

/-- Settles O48: the alignment check comes before every other. -/
theorem misalignedAccessIsRefused : Obligations.MisalignedAccessIsRefused :=
  fun _ _ _ h => ⟨if_pos h, if_pos h⟩

/-- The register offsets of 10_state.md R21 are the only ones read. -/
theorem State.readRegister_eq_none {off : Nat}
    (h : off ∉ [0x00, 0x04, 0x08, 0x0C, 0x10, 0x14, 0x20, 0x24, 0x28, 0x2C, 0x30, 0x34, 0x38, 0x40,
      0x44, 0x48, 0x4C, 0x50, 0x54]) : s.readRegister off = none := by
  simp only [List.mem_cons, List.not_mem_nil, not_or] at h
  simp [State.readRegister, h]

/-- A read that finds neither a register nor a buffer is refused (20_memory.md R65). -/
theorem State.memRead_refused (hreg : s.readRegister a.toNat = none)
    (hbuf : bufferAt s.nMax a.toNat = none) : s.memRead a = (.error, 0) := by
  rcases s.memRead_cases a with h | ⟨v, -, hv, -⟩ | ⟨b, -, -, hb, -⟩
  · exact h
  · exact absurd (hreg.symm.trans hv) nofun
  · exact absurd (hbuf.symm.trans hb) nofun

/-- A write that finds neither CMD, nor a register, nor a buffer that the host may write is refused
(20_memory.md R65, R66). -/
theorem State.memWrite_refused
    (hreg : a.toNat ∉ [0x00, 0x04, 0x10, 0x20, 0x24, 0x28, 0x2C, 0x30, 0x34, 0x38, 0x50, 0x54])
    (hbuf : ∀ b, bufferAt s.nMax a.toNat = some b → b.hostWritable = false) :
    s.memWrite a v = (.error, s) := by
  obtain ⟨resp, t, h⟩ : ∃ resp t, s.memWrite a v = (resp, t) := ⟨_, _, rfl⟩
  rcases State.memWrite_cases h with
    ⟨rfl, rfl⟩ | ⟨-, -, h0, -⟩ | ⟨r, -, -, -, -, hw, -⟩ | ⟨b, -, -, -, hb, hh, -⟩
  · exact h
  · exact absurd h0 (List.ne_of_not_mem_cons hreg)
  · have hnone := Regs.write_eq_none (r := s.regs) (v := v) (List.not_mem_of_not_mem_cons hreg)
    exact absurd (hnone.symm.trans hw) nofun
  · exact absurd ((hbuf b hb).symm.trans hh) nofun

/-- Settles O49: outside the nineteen offsets and the five windows an access finds nothing. -/
theorem unmappedAccessIsRefused : Obligations.UnmappedAccessIsRefused := by
  intro s a v _ hreg hhdr hsamp hcode hpay hframe
  have hbuf : bufferAt s.nMax a.toNat = none := by
    refine bufferAt_eq_none fun b => ?_
    cases b with
    | hdr => exact hhdr
    | samp => exact hsamp
    | code => exact hcode
    | pay => exact hpay
    | frame => exact hframe
  refine ⟨State.memRead_refused (State.readRegister_eq_none hreg) hbuf,
    State.memWrite_refused (fun hw => hreg ?_) fun b hb => absurd (hbuf.symm.trans hb) nofun⟩
  simp only [List.mem_cons, List.not_mem_nil, or_false] at hw ⊢
  omega

/-- Settles O50: the read-only registers are not among those written, and their windows and those
of HDR, PAY and FRAME lie apart from SAMP's and CODE's. -/
theorem readOnlyWriteIsRefused : Obligations.ReadOnlyWriteIsRefused := by
  intro s a v hn ha
  have hn := legalNMax_le hn
  simp only [List.mem_cons, List.not_mem_nil, or_false] at ha
  refine State.memWrite_refused ?_ fun b hb => ?_
  · simp only [List.mem_cons, List.not_mem_nil, or_false]
    omega
  · have hin := bufferAt_covers hb
    cases b with
    | hdr | pay | frame => rfl
    | samp | code => simp only [BufName.base, BufName.size] at hin; omega

/-! ### What the port answers while a command is pending -/

/-- While a command is pending every read above the registers is refused (20_memory.md R67). -/
theorem State.memRead_pending (hbusy : s.pending ≠ none) (hhigh : 0x100 ≤ a.toNat) :
    s.memRead a = (.error, 0) := by
  rcases s.memRead_cases a with h | ⟨v, hlow, -, -⟩ | ⟨b, -, hidle, -, -⟩
  · exact h
  · omega
  · exact absurd (by simpa [State.busy] using hidle) hbusy

/-- STATUS is the one register that shows whether a command is pending (10_state.md R24). -/
theorem State.readRegister_setPending (s : State) (p : Option Word) {off : Nat} (h : off ≠ 0x04) :
    ({ s with pending := p } : State).readRegister off = s.readRegister off := by
  unfold State.readRegister
  split <;> simp_all

/-- Settles O51: a register read but STATUS's does not see `pending`. -/
theorem busyAccessRules : Obligations.BusyAccessRules := by
  intro s w hp
  have hbusy : s.pending ≠ none := by simp [hp]
  refine ⟨State.memWrite_pending hbusy, fun a => State.memRead_pending hbusy,
    fun a hlow hstatus => ?_⟩
  simp only [State.memRead, hlow, if_true, s.readRegister_setPending none hstatus]

/-! ### Words written to a buffer -/

/-- A word-aligned offset in a window has its whole word in it: every window's size is a multiple
of 4 for a legal N_MAX (20_memory.md R61). -/
theorem BufName.word_fits {n o : Nat} (hn : Config.legalNMax n = true) (b : BufName)
    (haligned : o % 4 = 0) (ho : o < b.size n) : o + 3 < b.size n := by
  have h8 : n % 8 = 0 := by
    simp only [Config.legalNMax, Bool.and_eq_true, beq_iff_eq] at hn
    exact hn.1.1
  cases b <;> simp only [BufName.size] at ho ⊢ <;> omega

/-- A write to SAMP or CODE while nothing is pending (20_memory.md R63, R68). -/
theorem State.memWrite_buffer {b : BufName} {o : Nat} (hn : s.nMax ≤ 2 ^ 21)
    (hidle : s.pending = none) (hb : b.hostWritable = true) (haligned : o % 4 = 0)
    (ho : o + 3 < b.size s.nMax) (v : Word) :
    s.memWrite (BitVec.ofNat 32 (b.base + o)) v = (.okay, s.writeBytes b o (wordBytes v)) := by
  have haddr := b.toNat_base_add hn (Nat.lt_of_add_right_lt ho)
  have hwindow : (b.base + o) % 4 = 0 ∧ ¬ b.base + o < 0x100 := by
    cases b <;> simp only [BufName.base] <;> omega
  simp [State.memWrite, haddr, hwindow, bufferAt_base_add hn b ho, State.busy, hidle, hb]

/-- Byte j of a word written to a buffer stands j places up (20_memory.md R68). -/
theorem State.read_writeWord (s : State) (b : BufName) (o : Nat) (v : Word) {j : Nat}
    (hj : j < 4) : ((s.writeBytes b o (wordBytes v)).buf b).read (o + j) = some (wordByte v j) := by
  rw [State.read_writeBytes_inside s b o j (wordBytes v) hj]
  interval_cases j <;> rfl

/-- A word written to a buffer is read back whole (20_memory.md R68). -/
theorem State.readWord_writeWord (s : State) (b : BufName) (o : Nat) (v : Word) :
    (s.writeBytes b o (wordBytes v)).readWord b o = v := by
  have hcell {j : Nat} (hj : j < 4) (d : Nat) :
      (s.writeBytes b o (wordBytes v)).readCell b (o + j) d = wordByte v j :=
    State.readCell_of_some d (s.read_writeWord b o v hj)
  have hcell₀ : (s.writeBytes b o (wordBytes v)).readCell b o 0 = wordByte v 0 :=
    hcell (j := 0) (by decide) 0
  rw [State.readWord, hcell₀, hcell (j := 1) (by decide), hcell (j := 2) (by decide),
    hcell (j := 3) (by decide), wordOfBytes_wordByte]

/-- Settles O57: the write replaces four cells of one buffer with the word's bytes. -/
theorem bufferWordReadsBack : Obligations.BufferWordReadsBack := by
  intro s b o v hlegal hidle haligned hb
  have hn := legalNMax_le hlegal
  obtain ⟨hwritable, ho⟩ : b.hostWritable = true ∧ o < b.size s.nMax := by
    rcases hb with ⟨rfl, ho⟩ | ⟨rfl, ho⟩ <;> exact ⟨rfl, ho⟩
  have hword := b.word_fits hlegal haligned ho
  have hnMax : (s.writeBytes b o (wordBytes v)).nMax = s.nMax := by simp [State.nMax]
  refine ⟨s.writeBytes b o (wordBytes v), State.memWrite_buffer hn hidle hwritable haligned hword v,
    ?_, fun j => s.read_writeWord b o v, fun a ha => ?_, fun c hc a => ?_, ?_, ?_, ?_, ?_⟩
  · rw [State.memRead_buffer (by rwa [hnMax]) (by simpa using hidle) haligned (by rwa [hnMax]),
      State.readWord_writeWord]
  · exact s.read_writeBytes_outside b b o a (wordBytes v) fun _ => ha
  · exact s.read_writeBytes_outside b c o a (wordBytes v) fun h => absurd h hc
  · simp [SameEnvironment]
  · simp
  · simpa using hidle
  · simp

/-! ### One step of each agent -/

/-- The engine's turn with a command pending executes it (60_exceptions.md R254). -/
theorem State.engineTurn_of_pending {w : Word} (h : s.pending = some w) :
    s.engineTurn = exec (decode w) s := by
  simp [State.engineTurn, h]

/-- Settles O4: the engine moves by its turn, or because `busy` is a pending command. -/
theorem engineStepExecutesPendingWord : Obligations.EngineStepExecutesPendingWord := by
  intro s w hp
  refine ⟨fun ts hturns => ?_, fun hturns => ?_⟩
  · simpa only [step, hturns] using
      State.engineTurn_of_pending (s := { s with turns := ts }) hp
  · have hbusy : s.busy = true := by simp [State.busy, hp]
    simpa only [step, hturns, hbusy, if_true] using State.engineTurn_of_pending hp

/-- Settles O5: the access does the same whatever the turns and the program, and a write keeps the
replies. -/
theorem hostStepIsOneAccess : Obligations.HostStepIsOneAccess := by
  intro s ts a v p hm
  rw [step_of_hostMoves hm]
  refine ⟨fun hp => ?_, fun hp => ?_⟩
  · simp only [State.hostTurn, hp, State.hostRead, State.memRead_setEnvironment, State.drew,
      State.noteReply]
  · obtain ⟨-, -, hreplies⟩ := s.memWrite_sameEnvironment a v
    simp only [State.hostTurn, hp, State.hostWrite, State.memWrite_setEnvironment,
      State.noteReply, hreplies]

end Sys2Proof.Machine
end

section
/-! Command words (30_encoding.md R90 to R94): which words are illegal, and that decoding inverts an
encoding which reaches every word. -/

namespace Sys2Proof

variable {w : Word} {i : Instr}

/-! ### The illegal words -/

theorem toNat_reservedField (w : Word) : (reservedField w).toNat = w.toNat / 256 := by
  simp only [reservedField, BitVec.extractLsb'_toNat, Nat.shiftRight_eq_div_pow]
  omega

theorem toNat_opcodeField (w : Word) : (opcodeField w).toNat = w.toNat % 256 := by
  simp [opcodeField]

/-- The reserved bits and the opcode, as the illegal words are told by them (30_encoding.md R92,
R93). -/
theorem illegalWord_iff :
    illegalWord w = true ↔ reservedField w ≠ 0#24 ∨ 8 ≤ (opcodeField w).toNat := by
  simp [illegalWord, reservedField, opcodeField]

/-- The two kinds of illegal word by their number. -/
theorem illegalWord_iff_toNat :
    illegalWord w = true ↔ w.toNat / 256 ≠ 0 ∨ 8 ≤ w.toNat % 256 := by
  rw [illegalWord_iff, toNat_opcodeField, ne_eq, ← BitVec.toNat_inj, toNat_reservedField]
  rfl

theorem decode_of_illegalWord (h : illegalWord w = true) : decode w = .illegal w := by
  by_cases hr : reservedField w = 0#24
  · have hop : 8 ≤ (opcodeField w).toNat := (illegalWord_iff.mp h).resolve_left (absurd hr)
    rw [decode, if_neg (not_not_intro hr)]
    split
    iterate 8
      · omega
    · rfl
  · exact if_pos hr

/-! ### Decoding inverts encoding -/

theorem decode_encode (h : i.wellFormed = true) : decode (encode i) = i := by
  cases i with
  | illegal w => exact decode_of_illegalWord h
  | nop | cfgCommit | encHdr | quantize | pack | assemble | encFrame | softReset => rfl

/-- Every word is the encoding of a well-formed command: below 8 of the named one with that opcode,
from 8 on of the illegal command that keeps the word. -/
theorem exists_wellFormed_encode_eq (w : Word) :
    ∃ i : Instr, i.wellFormed = true ∧ encode i = w := by
  by_cases h : illegalWord w = true
  · exact ⟨.illegal w, h, rfl⟩
  · rw [illegalWord_iff_toNat] at h
    have hlt : w.toNat < 8 := by omega
    interval_cases hn : w.toNat
    · exact ⟨.nop, rfl, BitVec.eq_of_toNat_eq hn.symm⟩
    · exact ⟨.cfgCommit, rfl, BitVec.eq_of_toNat_eq hn.symm⟩
    · exact ⟨.encHdr, rfl, BitVec.eq_of_toNat_eq hn.symm⟩
    · exact ⟨.quantize, rfl, BitVec.eq_of_toNat_eq hn.symm⟩
    · exact ⟨.pack, rfl, BitVec.eq_of_toNat_eq hn.symm⟩
    · exact ⟨.assemble, rfl, BitVec.eq_of_toNat_eq hn.symm⟩
    · exact ⟨.encFrame, rfl, BitVec.eq_of_toNat_eq hn.symm⟩
    · exact ⟨.softReset, rfl, BitVec.eq_of_toNat_eq hn.symm⟩

/-- Settles O3: decoding is a left inverse of encoding, and encoding reaches every word, so it is a
right inverse too. -/
theorem decodeEncodeAgree : Obligations.DecodeEncodeAgree := by
  refine ⟨fun i => decode_encode, fun w => ?_⟩
  obtain ⟨i, hi, rfl⟩ := exists_wellFormed_encode_eq w
  rw [decode_encode hi]
  exact ⟨rfl, hi⟩

/-- Settles O2: an illegal word decodes to itself, and what any word decodes to is well formed. -/
theorem otherWordsAreIllegal : Obligations.OtherWordsAreIllegal := by
  intro w
  rw [← illegalWord_iff_toNat]
  refine ⟨decode_of_illegalWord, fun hdecode => ?_⟩
  have hwf : (decode w).wellFormed = true := (decodeEncodeAgree.2 w).2
  rwa [hdecode] at hwf

/-- Settles O1: eight words encode the named commands, four are illegal. -/
theorem exampleWordsDecode : Obligations.ExampleWordsDecode :=
  ⟨decode_encode (i := .nop) rfl, decode_encode (i := .cfgCommit) rfl,
    decode_encode (i := .encHdr) rfl, decode_encode (i := .quantize) rfl,
    decode_encode (i := .pack) rfl, decode_encode (i := .assemble) rfl,
    decode_encode (i := .encFrame) rfl, decode_encode (i := .softReset) rfl,
    decode_of_illegalWord rfl, decode_of_illegalWord rfl, decode_of_illegalWord rfl,
    decode_of_illegalWord rfl⟩

end Sys2Proof
end

section
/-! Samples (30_encoding.md R110, R111): the bytes of a sample's word, and the exact rational that
the word stands for. -/

namespace Sys2Proof.Machine

/-! ### The bytes of a sample -/

/-- Eight bytes as one word: byte j stands at bits 8j + 7 to 8j (30_encoding.md R110). -/
theorem extractLsb'_ofNat_sumOfBytes {bs : List Byte} (hlen : bs.length = 8) {j : Nat}
    (hj : j < 8) :
    (BitVec.ofNat 64 (sumOfBytes bs)).extractLsb' (8 * j) 8 = bs[j] := by
  have hlt : sumOfBytes bs < 2 ^ 64 := by
    have := sumOfBytes_lt bs
    rwa [hlen] at this
  apply BitVec.eq_of_toNat_eq
  rw [BitVec.extractLsb'_toNat, BitVec.toNat_ofNat, Nat.mod_eq_of_lt hlt,
    Nat.shiftRight_eq_div_pow, Nat.pow_mul]
  exact sumOfBytes_div_mod bs (hlen ▸ hj)

/-- Byte j of sample i is the cell of SAMP at 8i + j (30_encoding.md R110). -/
theorem State.extractLsb'_sampleWord (s : State) (i : Nat) {j : Nat} (hj : j < 8) :
    (s.sampleWord i).extractLsb' (8 * j) 8 = s.readCell .samp (8 * i + j) (8 * i + j) := by
  rw [State.sampleWord, extractLsb'_ofNat_sumOfBytes (s.length_readBytes ..) hj,
    State.getElem_readBytes]

/-! ### The fields of a binary64 word -/

theorem expField_eq (x : Binary64) : expField x = x.toNat / 2 ^ 52 % 2 ^ 11 := by
  rw [expField, BitVec.extractLsb'_toNat, Nat.shiftRight_eq_div_pow]

theorem fracField_eq (x : Binary64) : fracField x = x.toNat % 2 ^ 52 := by
  rw [fracField, BitVec.extractLsb'_toNat, Nat.shiftRight_zero]

theorem signBit_iff (x : Binary64) : x.getLsbD 63 = true ↔ x.toNat / 2 ^ 63 = 1 := by
  have hlt : x.toNat / 2 ^ 63 < 2 := by omega
  rw [BitVec.getLsbD, Nat.testBit_eq_decide_div_mod_eq, Nat.mod_eq_of_lt hlt, decide_eq_true_iff]

theorem isFinite64_iff (x : Binary64) :
    isFinite64 x = true ↔ x.toNat / 2 ^ 52 % 2 ^ 11 ≠ 0x7FF := by
  rw [isFinite64, expField_eq, bne_iff_ne]

/-! ### The value of a binary64 word -/

/-- A fraction over a power of two, as a product with a negative power. -/
theorem mkRat_two_pow (n : ℤ) (k : ℕ) : mkRat n (2 ^ k) = n * (2 : ℚ) ^ (-(k : ℤ)) := by
  rw [Rat.mkRat_eq_div, zpow_neg, zpow_natCast, Nat.cast_pow, Nat.cast_ofNat, div_eq_mul_inv]

/-- The three branches of the magnitude are R111's two cases: above exponent 1075 and below it the
significand is scaled by the same power of two. -/
theorem magnitude64_eq (x : Binary64) :
    magnitude64 x =
      if expField x = 0 then (fracField x : ℚ) * (2 : ℚ) ^ (-1074 : ℤ)
      else ((2 ^ 52 + fracField x : ℕ) : ℚ) * (2 : ℚ) ^ ((expField x : ℤ) - 1075) := by
  rw [magnitude64]
  split_ifs with hzero hlarge
  · exact mkRat_two_pow (fracField x) 1074
  · have hexp : (expField x : ℤ) - 1075 = ((expField x - 1075 : ℕ) : ℤ) := by omega
    rw [hexp, zpow_natCast, Nat.cast_mul, Nat.cast_pow 2 (expField x - 1075), Nat.cast_ofNat]
  · have hexp : (expField x : ℤ) - 1075 = -((1075 - expField x : ℕ) : ℤ) := by omega
    rw [hexp, mkRat_two_pow]
    norm_num

/-- The model's value is the one R111 writes. -/
theorem value64_eq_exactValue (x : Binary64) : value64 x = exactValue x := by
  rw [value64, magnitude64_eq, exactValue, ← expField_eq, ← fracField_eq]
  by_cases hsign : x.getLsbD 63 = true
  · rw [if_pos hsign, if_pos ((signBit_iff x).mp hsign), neg_one_mul]
  · rw [if_neg hsign, if_neg (mt (signBit_iff x).mpr hsign), one_mul]

/-- Settles O27: the word's bytes by base-256 digits, its value by the fields of the word. -/
theorem sampleValuesAreBinary64 : Obligations.SampleValuesAreBinary64 :=
  ⟨fun s i _ => s.extractLsb'_sampleWord i,
    fun x => ⟨isFinite64_iff x, fun _ => value64_eq_exactValue x⟩⟩

end Sys2Proof.Machine
end

section
/-! The host's `wait` (30_encoding.md R121; 20_memory.md R76). -/

namespace Sys2Proof.Machine

variable {s : State}

/-- STATUS is read, a command pending or not (20_memory.md R67). -/
theorem State.memRead_status (s : State) : s.memRead statusAddress = (.okay, s.statusWord) :=
  State.memRead_register rfl (by decide) rfl

/-- Bit 1 of STATUS is BUSY (10_state.md R24). -/
theorem State.getLsbD_statusWord_one (s : State) : s.statusWord.getLsbD 1 = s.busy := by
  rw [State.getLsbD_statusWord]
  simp

/-- A host step at `wait` reads STATUS, and leaves the `wait` in place while a command is pending. -/
theorem State.hostTurn_wait {p : List HostOp} (hp : s.program = .wait :: p) :
    s.hostTurn =
      ({ s with program := if s.pending = none then p else .wait :: p } : State).hostRead
        statusAddress := by
  simp only [State.hostTurn, hp, State.memRead_status, State.getLsbD_statusWord_one]
  cases hpending : s.pending with
  | none => simp [State.busy, hpending]
  | some w =>
    have hsame : ({ s with pending := some w, program := .wait :: p } : State) = s := by
      rw [← hpending, ← hp]
    simp [State.busy, hpending, hsame]

/-- Settles O59: what STATUS reads depends on neither the turns nor the program. -/
theorem waitEndsWhenNotBusy : Obligations.WaitEndsWhenNotBusy := by
  intro s ts p hm hp
  refine ⟨_, s.statusWord, step_of_hostMoves hm, s.memRead_status, ?_⟩
  rw [State.hostTurn_wait (s := { s with turns := ts }) hp, State.hostRead, State.memRead_status]
  rfl

end Sys2Proof.Machine
end

section
/-! CFG_COMMIT (40_config.md): acceptance against the nine checks, the state each outcome leaves,
what the outcome depends on, and which sample counts check 4 passes. -/

namespace Sys2Proof.Machine

variable {s t : State} {r : Regs} {i : Nat}

/-! ### The checks and acceptance -/

/-- Only the numbers 1 to 9 name a check (40_config.md R133). -/
theorem Regs.CheckFails.exists_eq_succ (h : r.CheckFails i) : ∃ j < 9, i = j + 1 := by
  cases i with
  | zero => exact h.elim
  | succ j =>
    refine ⟨j, ?_, rfl⟩
    by_contra hj
    obtain ⟨k, rfl⟩ := Nat.exists_eq_add_of_le' (Nat.le_of_not_lt hj)
    exact h

/-- Each clause of acceptance rules out one check's failure (40_config.md R133). -/
theorem Regs.Accepted.not_checkFails (h : r.Accepted) (i : Nat) : ¬ r.CheckFails i := by
  obtain ⟨hbps, ⟨k, -, hk⟩, hstation, hlength, hspf, hversion, hthread, hpolicy, hlayout⟩ := h
  intro hfail
  obtain ⟨j, hj, rfl⟩ := hfail.exists_eq_succ
  interval_cases j <;> simp only [Regs.CheckFails] at hfail
  · omega
  · exact hfail ⟨k, hk⟩
  iterate 5
    · omega
  · exact hfail.2 (hpolicy hfail.1)
  · omega

/-- The mask CFG_COMMIT computes is 0 exactly on an acceptable configuration (40_config.md R130). -/
theorem Regs.checkMask_eq_zero_iff_accepted : r.checkMask = 0 ↔ r.Accepted :=
  ⟨Regs.accepted_of_checkMask_eq_zero,
    fun h => r.checkMask_eq_zero_iff.mpr fun i _ => h.not_checkFails (i + 1)⟩

/-- Settles O16: each clause of acceptance excludes its check, and a mask without a bit set leaves
none to fail. -/
theorem checksDecideAcceptance : Obligations.ChecksDecideAcceptance := by
  refine fun r => ⟨⟨fun h i _ _ => h.not_checkFails i, fun hpass => ?_⟩,
    Regs.checkMask_eq_zero_iff_accepted⟩
  have hmask : r.checkMask = 0 :=
    r.checkMask_eq_zero_iff.mpr fun i hi => hpass (i + 1) (by omega) (by omega)
  exact Regs.accepted_of_checkMask_eq_zero hmask

/-! ### An accepted commit -/

theorem exec_cfgCommit_of_accepted (h : s.regs.Accepted) :
    exec .cfgCommit s = .next (s.setRegs s.regs.acceptConfig).complete := by
  rw [exec, execCfgCommit, if_pos (Regs.checkMask_eq_zero_iff_accepted.mpr h)]

/-- The frame is a whole number of eight-byte units, by check 4 (40_config.md R132). -/
theorem Regs.Accepted.frameLengthUnits_mul (h : r.Accepted) (hn : r.nMaxReg.toNat ≤ 2 ^ 21) :
    r.acceptConfig.frameLengthUnits.toNat * 8 = 32 + r.payloadSize := by
  have hsize := h.payloadSize_le
  have hlength : (32 + r.payloadSize) % 8 = 0 := h.frameLength
  simp only [Regs.acceptConfig, BitVec.toNat_ofNat]
  omega

/-- Settles O14: the derived registers hold their values because an accepted frame fits them. -/
theorem commitAcceptsValidConfiguration : Obligations.CommitAcceptsValidConfiguration := by
  intro s hn ha
  have hmax : s.regs.nMaxReg.toNat ≤ 2 ^ 21 := legalNMax_le hn
  have hmask : s.regs.checkMask = 0 := Regs.checkMask_eq_zero_iff_accepted.mpr ha
  obtain ⟨hpayload, hframe, hchannels, hcfgErr⟩ := Regs.derived_acceptConfig hmax hmask
  refine ⟨_, exec_cfgCommit_of_accepted ha, ?_, hpayload, hframe, ?_, hchannels.symm⟩
  · rw [← hcfgErr]
    rfl
  · exact (ha.frameLengthUnits_mul hmax).trans (congrArg (32 + ·) hpayload.symm)

/-! ### A rejected commit -/

theorem exec_cfgCommit_of_not_accepted (h : ¬ s.regs.Accepted) :
    exec .cfgCommit s =
      .next ((s.setRegs s.regs.rejectConfig).fail (primaryError s.regs.checkMask)) := by
  rw [exec, execCfgCommit, if_neg (mt Regs.checkMask_eq_zero_iff_accepted.mp h)]

/-- The code raised is the number of the lowest bit set, counted from 1 (40_config.md R141). -/
theorem code_primaryError {mask : BitVec 9} {j : Nat} (hj : j < 9)
    (hset : mask.getLsbD j = true) (hlow : ∀ k < j, mask.getLsbD k = false) :
    (primaryError mask).code = BitVec.ofNat 8 (j + 1) := by
  interval_cases j <;>
    simp only [primaryError, hset, hlow, Nat.reduceLT, Bool.false_eq_true, if_true, if_false] <;>
    rfl

/-- Settles O15: the mask's bits are the failing checks, so its lowest bit is the lowest of them. -/
theorem commitRejectsInvalidConfiguration : Obligations.CommitRejectsInvalidConfiguration := by
  intro s i hfail hlow
  obtain ⟨j, hj, rfl⟩ := hfail.exists_eq_succ
  have hbit (k : Nat) (hk : k < 9) :
      s.regs.checkMask.getLsbD k = true ↔ s.regs.CheckFails (k + 1) :=
    s.regs.getLsbD_checkMask_iff hk
  have hcode : (primaryError s.regs.checkMask).code = BitVec.ofNat 8 (j + 1) := by
    refine code_primaryError hj ((hbit j hj).mpr hfail) fun k hk => ?_
    exact Bool.eq_false_iff.mpr (mt (hbit k (by omega)).mp (hlow (k + 1) (by omega)))
  refine ⟨_, exec_cfgCommit_of_not_accepted fun ha => ha.not_checkFails _ hfail, ?_⟩
  rw [State.fail_eq, hcode]
  exact ⟨rfl, hbit⟩

/-! ### What a commit depends on -/

/-- The seven CFG registers and N_MAX, every other register as at reset (40_config.md R142). -/
def Regs.configurationOnly (r : Regs) : Regs :=
  { Regs.reset r.nMaxReg with
    cfgSpf := r.cfgSpf
    cfgBps := r.cfgBps
    cfgChannels := r.cfgChannels
    cfgThreadId := r.cfgThreadId
    cfgStationId := r.cfgStationId
    cfgVdifVersion := r.cfgVdifVersion
    cfgMode := r.cfgMode }

/-- The registers with a commit's result written, before it completes or raises
(40_config.md R130). -/
def Regs.commitConfig (r : Regs) : Regs :=
  if r.checkMask = 0 then r.acceptConfig else r.rejectConfig

/-- A commit writes six registers, each from the seven CFG registers and N_MAX alone. -/
theorem Regs.commitConfig_eq (r : Regs) :
    r.commitConfig = { r with
      cfgErr := r.configurationOnly.commitConfig.cfgErr
      cfgValid := r.configurationOnly.commitConfig.cfgValid
      payloadBytes := r.configurationOnly.commitConfig.payloadBytes
      frameBytes := r.configurationOnly.commitConfig.frameBytes
      frameLengthUnits := r.configurationOnly.commitConfig.frameLengthUnits
      log2Channels := r.configurationOnly.commitConfig.log2Channels } := by
  have hmask : r.configurationOnly.checkMask = r.checkMask := rfl
  unfold Regs.commitConfig
  rw [hmask]
  split
  · rfl
  · rfl

/-- A commit leaves the result it has written; completing or raising moves only STATUS and ERR_CODE
(60_exceptions.md R255, R256). -/
theorem exec_cfgCommit_sameConfiguration (h : exec .cfgCommit s = .next t) :
    SameConfiguration s.regs.commitConfig t.regs := by
  rcases execCfgCommit_cases h with ⟨hmask, rfl⟩ | ⟨hmask, rfl⟩
  · rw [Regs.commitConfig, if_pos hmask]
    rfl
  · rw [Regs.commitConfig, if_neg hmask, State.fail_eq]
    rfl

/-- Settles O17: the six registers a commit writes come from the part of the registers on which both
states agree. -/
theorem commitDependsOnConfigurationOnly : Obligations.CommitDependsOnConfigurationOnly := by
  intro s s' t t' hn hspf hbps hch hthread hstation hversion hmode ht ht'
  have hconfig : s'.regs.configurationOnly = s.regs.configurationOnly := by
    simp only [Regs.configurationOnly, hn, hspf, hbps, hch, hthread, hstation, hversion, hmode]
  rw [exec_cfgCommit_sameConfiguration ht, exec_cfgCommit_sameConfiguration ht',
    s.regs.commitConfig_eq, s'.regs.commitConfig_eq, hconfig]
  exact ⟨rfl, rfl, rfl, rfl, rfl, rfl⟩

/-! ### Sample counts that pass check 4 -/

/-- Check 4 by the number of bits of the payload modulo 64 (40_config.md R134). -/
theorem Regs.frameLength_iff (r : Regs) (b : Nat) (hb : r.cfgBps.toNat = b) :
    (32 + r.payloadSize) % 8 = 0 ↔
      r.cfgSpf.toNat * b % 64 = 0 ∨ 57 ≤ r.cfgSpf.toNat * b % 64 := by
  rw [Regs.payloadSize, Regs.spf, Regs.bps, hb]
  omega

/-- Settles O18: each width's clause is the general law with `spf * b` reduced. -/
theorem frameLengthCheckBySampleCount : Obligations.FrameLengthCheckBySampleCount := by
  intro r
  have two (hb : r.cfgBps = 2) : (32 + r.payloadSize) % 8 = 0 ↔
      r.cfgSpf.toNat % 32 = 0 ∨ 29 ≤ r.cfgSpf.toNat % 32 := by
    rw [r.frameLength_iff 2 (congrArg BitVec.toNat hb)]
    omega
  refine ⟨r.frameLength_iff _ rfl, two, fun hb => ?_, fun hb => ?_, fun hb hspf => ?_,
    fun hb hspf => ?_⟩
  · rw [r.frameLength_iff 1 (congrArg BitVec.toNat hb), Nat.mul_one]
  · rw [r.frameLength_iff 8 (congrArg BitVec.toNat hb)]
    omega
  · rw [two hb, hspf]
    decide
  · have hsize : r.payloadSize = 5001 := by
      rw [Regs.payloadSize, Regs.spf, Regs.bps, hb, hspf]
      rfl
    exact ⟨hsize, by omega⟩

end Sys2Proof.Machine
end

section
/-! The quantizer's arithmetic (41_quantizer.md R152 to R154): clip-floor as a count, the quartile
thresholds in quarters of an order statistic, and the codes they give. -/

namespace Sys2Proof.Machine

variable {y v : List ℚ} {m n i j k b : ℕ}

/-! ### Clip-floor -/

/-- Of the numbers below `n`, those from 1 up to `m` are `min m (n - 1)` many. -/
theorem countP_range_one_le (m n : ℕ) :
    (List.range n).countP (fun k => decide (1 ≤ k ∧ k ≤ m)) = min m (n - 1) := by
  induction n with
  | zero => simp
  | succ n ih =>
    rw [List.range_succ, List.countP_append, ih, List.countP_singleton]
    simp only [decide_eq_true_eq]
    split_ifs <;> omega

/-- A positive whole number is at most a rational exactly when it is at most its floor. -/
theorem one_le_cast_and_cast_le_iff (v : ℚ) (k : ℕ) :
    1 ≤ (k : ℚ) ∧ (k : ℚ) ≤ v ↔ 1 ≤ k ∧ k ≤ ⌊v⌋.toNat := by
  have hfloor : (k : ℚ) ≤ v ↔ (k : ℤ) ≤ ⌊v⌋ := by rw [Int.le_floor, Int.cast_natCast]
  rw [Nat.one_le_cast, hfloor]
  omega

/-- Settles O28: the steps up to the sample are the numbers from 1 up to its floor. The statement
counts them as rationals, the range cast number by number. -/
theorem clipFloorCountsSteps : Obligations.ClipFloorCountsSteps := by
  intro v b
  have hpow : 1 ≤ 2 ^ b := Nat.one_le_two_pow
  rw [bind_pure_comp, List.map_eq_map, List.countP_map]
  simp only [Function.comp_def, one_le_cast_and_cast_le_iff]
  rw [countP_range_one_le, Nat.cast_min, Int.toNat_eq_max, Nat.cast_sub hpow]
  push_cast
  rfl

/-- A clip-floor code of at most 8 bits fits its byte (41_quantizer.md R152). -/
theorem toNat_ofInt_clipFloor (v : ℚ) (hb : b ≤ 8) :
    ((BitVec.ofInt 8 (clipFloor v b)).toNat : ℤ) = min (max ⌊v⌋ 0) (2 ^ b - 1) := by
  have hpos : (1 : ℤ) ≤ 2 ^ b := one_le_pow₀ (by decide)
  have hmax : (2 : ℤ) ^ b ≤ 2 ^ 8 := pow_le_pow_right₀ (by decide) hb
  have hclip : clipFloor v b = min (max ⌊v⌋ 0) (2 ^ b - 1) := rfl
  rw [BitVec.toNat_ofInt, hclip]
  omega

/-! ### Thresholds -/

/-- The list read at `n` quarters of an index, on the line between its neighbours: threshold j
stands at `(N − 1)·j` quarters (41_quantizer.md R153). -/
def quarterPoint (y : List ℚ) (n : ℕ) : ℚ :=
  y.getD (n / 4) 0 + ((n % 4 : ℕ) : ℚ) / 4 * (y.getD (n / 4 + 1) 0 - y.getD (n / 4) 0)

theorem quartile_eq_quarterPoint (y : List ℚ) (j : ℕ) :
    quartile y j = quarterPoint y ((y.length - 1) * j) := by
  have hf : mkRat (((y.length - 1) * j % 4 : ℕ) : ℤ) 4 = (((y.length - 1) * j % 4 : ℕ) : ℚ) / 4 := by
    rw [Rat.mkRat_eq_div, Int.cast_natCast, Nat.cast_ofNat]
  simp only [quartile, quarterPoint, hf]
  split_ifs with hzero
  · rw [hzero, zero_mul, add_zero]
  · rfl

/-- The model's whole quarters are the floor that R153 writes. -/
theorem interpolated_eq_quarterPoint (hy : y ≠ []) (j : ℕ) :
    interpolated y j = quarterPoint y ((y.length - 1) * j) := by
  have hlen : 1 ≤ y.length := List.length_pos_iff.mpr hy
  have hh : ((y.length : ℚ) - 1) * j / 4 = (((y.length - 1) * j : ℕ) : ℚ) / (4 : ℕ) := by
    push_cast [hlen]
    rfl
  have hfloor (n : ℕ) : ⌊(n : ℚ) / (4 : ℕ)⌋.toNat = n / 4 := by
    rw [Rat.floor_natCast_div_natCast]
    omega
  have hfract (n : ℕ) : (n : ℚ) / (4 : ℕ) - ⌊(n : ℚ) / (4 : ℕ)⌋ = ((n % 4 : ℕ) : ℚ) / 4 :=
    Int.fract_div_natCast_eq_div_natCast_mod
  simp only [interpolated, quarterPoint, hh, hfloor, hfract]

/-- The model's thresholds are those R153 writes. -/
theorem quartile_eq_interpolated (hy : y ≠ []) (j : ℕ) : quartile y j = interpolated y j :=
  (quartile_eq_quarterPoint y j).trans (interpolated_eq_quarterPoint hy j).symm

/-- A quarter further on an ascending list, the value is no lower: it moves along one line, or
reaches the line's upper end. -/
theorem quarterPoint_le_succ (hy : y.Pairwise (· ≤ ·)) (hn : n < 4 * (y.length - 1)) :
    quarterPoint y n ≤ quarterPoint y (n + 1) := by
  have hhi : n / 4 + 1 < y.length := by omega
  have hlo : n / 4 < y.length := by omega
  have hline : y.getD (n / 4) 0 ≤ y.getD (n / 4 + 1) 0 := by
    rw [List.getD_eq_getElem _ _ hlo, List.getD_eq_getElem _ _ hhi]
    exact List.pairwise_iff_getElem.mp hy _ _ hlo hhi (Nat.lt_succ_self _)
  unfold quarterPoint
  by_cases hr : n % 4 = 3
  · have hdiv : (n + 1) / 4 = n / 4 + 1 := by omega
    have hmod : (n + 1) % 4 = 0 := by omega
    rw [hdiv, hmod, hr]
    push_cast
    linarith
  · have hdiv : (n + 1) / 4 = n / 4 := by omega
    have hmod : (n + 1) % 4 = n % 4 + 1 := by omega
    rw [hdiv, hmod]
    push_cast
    linarith

theorem quarterPoint_mono (hy : y.Pairwise (· ≤ ·)) (hmn : m ≤ n) (hn : n ≤ 4 * (y.length - 1)) :
    quarterPoint y m ≤ quarterPoint y n := by
  induction n, hmn using Nat.le_induction with
  | base => exact le_rfl
  | succ n hmn ih => exact (ih (by omega)).trans (quarterPoint_le_succ hy (by omega))

theorem quartile_mono (hy : y.Pairwise (· ≤ ·)) (hjk : j ≤ k) (hk : k ≤ 4) :
    quartile y j ≤ quartile y k := by
  rw [quartile_eq_quarterPoint, quartile_eq_quarterPoint]
  refine quarterPoint_mono hy (Nat.mul_le_mul_left _ hjk) ?_
  rw [Nat.mul_comm 4]
  exact Nat.mul_le_mul_left _ hk

/-- The least value is the quartile at 0, below every threshold. -/
theorem getD_zero_le_quartile (hy : y.Pairwise (· ≤ ·)) (hj : j ≤ 4) :
    y.getD 0 0 ≤ quartile y j := by
  have hzero : quartile y 0 = y.getD 0 0 := by simp [quartile_eq_quarterPoint, quarterPoint]
  exact hzero ▸ quartile_mono hy (Nat.zero_le j) hj

theorem sortedValues_pairwise (v : List ℚ) : (sortedValues v).Pairwise (· ≤ ·) :=
  List.pairwise_insertionSort _ v

theorem sortedValues_perm (v : List ℚ) : (sortedValues v).Perm v := List.perm_insertionSort _ v

/-- A list has one ascending arrangement. -/
theorem eq_sortedValues (hperm : y.Perm v) (hy : y.Pairwise (· ≤ ·)) : y = sortedValues v :=
  (hperm.trans (sortedValues_perm v).symm).eq_of_pairwise' hy (sortedValues_pairwise v)

theorem percentileThresholds_eq_map (v : List ℚ) :
    percentileThresholds v = [1, 2, 3].map (quartile (sortedValues v)) := rfl

/-- Settles O32: the thresholds are quartiles 1, 2 and 3 of an ascending list. -/
theorem thresholdsAscend : Obligations.ThresholdsAscend := fun v _ =>
  ⟨_, _, _, rfl, quartile_mono (sortedValues_pairwise v) (by decide) (by decide),
    quartile_mono (sortedValues_pairwise v) (by decide) (by decide)⟩

/-! ### Percentile codes -/

/-- The code of the value `x` in the frame `v`: how many thresholds lie strictly below it
(41_quantizer.md R154). -/
def percentileCode (v : List ℚ) (x : ℚ) : ℕ :=
  (percentileThresholds v).countP fun t => decide (t < x)

theorem percentileCodes_eq_map (v : List ℚ) : percentileCodes v = v.map (percentileCode v) := rfl

theorem percentileCode_le_three (v : List ℚ) (x : ℚ) : percentileCode v x ≤ 3 :=
  List.countP_le_length

theorem percentileCode_mono (v : List ℚ) : Monotone (percentileCode v) := fun _ _ hx =>
  List.countP_mono_left fun _ _ ht => decide_eq_true ((of_decide_eq_true ht).trans_le hx)

/-- A value that no sample is below lies at or below every threshold. -/
theorem percentileCode_eq_zero {x : ℚ} (hv : v ≠ []) (hx : ∀ z ∈ v, x ≤ z) :
    percentileCode v x = 0 := by
  have hsorted := sortedValues_pairwise v
  have hpos : 0 < (sortedValues v).length := by
    rw [(sortedValues_perm v).length_eq]
    exact List.length_pos_iff.mpr hv
  have hleast : x ≤ (sortedValues v).getD 0 0 := by
    rw [List.getD_eq_getElem _ _ hpos]
    exact hx _ ((sortedValues_perm v).mem_iff.mp (List.getElem_mem hpos))
  rw [percentileCode, percentileThresholds_eq_map, List.countP_map, List.countP_eq_zero]
  intro j hj
  have hj4 : j ≤ 4 := by
    simp only [List.mem_cons, List.not_mem_nil, or_false] at hj
    omega
  simpa using hleast.trans (getD_zero_le_quartile hsorted hj4)

/-- The code against R153's own interpolation, in any ascending arrangement of the frame. -/
theorem percentileCode_eq_countP_interpolated (hv : v ≠ []) (hperm : y.Perm v)
    (hy : y.Pairwise (· ≤ ·)) (x : ℚ) :
    percentileCode v x = [1, 2, 3].countP fun j => decide (interpolated y j < x) := by
  have hne : y ≠ [] := fun h => hv (List.nil_perm.mp (h ▸ hperm))
  rw [percentileCode, percentileThresholds_eq_map, ← eq_sortedValues hperm hy, List.countP_map]
  simp only [Function.comp_def, quartile_eq_interpolated hne]

/-- Settles O33: the code counts thresholds, so it rises with the sample, and no threshold is below
the least one. -/
theorem percentileCodesFollowSamples : Obligations.PercentileCodesFollowSamples := by
  intro v
  have code (i : ℕ) (hi : i < v.length) : (percentileCodes v).getD i 0 = percentileCode v v[i] := by
    rw [List.getD_eq_getElem _ _ (by simpa using hi)]
    simp only [percentileCodes_eq_map, List.getElem_map]
  refine ⟨length_percentileCodes v, fun i j hi hj hle => ?_, fun i => ?_, fun i hi hle => ?_⟩
  · rw [code i hi, code j hj]
    exact percentileCode_mono v hle
  · by_cases hi : i < v.length
    · exact (code i hi).trans_le (percentileCode_le_three v _)
    · rw [List.getD_eq_default _ _ (by simpa using hi)]
      exact Nat.zero_le 3
  · rw [code i hi]
    exact percentileCode_eq_zero (List.ne_nil_of_length_pos (by omega)) hle

end Sys2Proof.Machine
end

section
/-! QUANTIZE (41_quantizer.md R150, R151, R155, R156): the state it leaves when every sample is
finite and when one is not, the codes of each policy, and what they depend on. -/

namespace Sys2Proof.Machine

variable {s : State} {i : Instr}

/-! ### The two outcomes -/

/-- The exact values of a frame's samples (30_encoding.md R111). -/
def State.sampleValues (s : State) : List ℚ :=
  (List.range s.regs.cfgSpf.toNat).map fun i => exactValue (s.sampleWord i)

theorem State.map_value64_samples (s : State) : s.samples.map value64 = s.sampleValues := by
  simp [State.samples, State.sampleValues, Regs.spf, value64_eq_exactValue]

@[simp] theorem State.length_sampleValues (s : State) :
    s.sampleValues.length = s.regs.cfgSpf.toNat := by simp [State.sampleValues]

/-- The codes QUANTIZE writes when every sample is finite. -/
def State.quantizedCodes (s : State) : List Byte :=
  frameCodes (s.regs.cfgMode.getLsbD 0) s.regs.cfgBps.toNat s.sampleValues

@[simp] theorem State.length_quantizedCodes (s : State) :
    s.quantizedCodes.length = s.regs.cfgSpf.toNat := by simp [State.quantizedCodes]

/-- QUANTIZE of finite samples writes the N codes and completes (41_quantizer.md R150, R156). -/
theorem exec_quantize_of_finite (hv : s.regs.cfgValid = true) (hfinite : s.FiniteSamples) :
    ∃ t, exec .quantize s = .next t ∧
      (∀ i, i < s.regs.cfgSpf.toNat → t.code.read i = s.quantizedCodes[i]?) ∧
      (∀ i, s.regs.cfgSpf.toNat ≤ i → t.code.read i = s.code.read i) ∧
      SameBuffersBut .code s t ∧ SameEnvironment s t ∧ t.pending = none ∧
      t.regs = { s.regs with done := true } := by
  have hcodes : s.quantizeFrame = some s.quantizedCodes := by
    rw [State.quantizeFrame_of_finite hfinite, State.map_value64_samples]
    rfl
  have hexec : exec .quantize s = .next (s.writeCodes s.quantizedCodes).complete := by
    rw [exec, execQuantize, whenConfigured_of_valid hv, hcodes]
  have hcode (i : ℕ) : (s.writeCodes s.quantizedCodes).complete.code.read i =
      ((s.buf .code).writeRange 0 s.quantizedCodes).read i :=
    congrArg (Memory.read · i) (s.buf_writeCodes_self s.quantizedCodes)
  refine ⟨_, hexec, fun i hi => ?_, fun i hi => ?_, fun c hc o => by simp [hc],
    by simp [SameEnvironment], rfl, by simp⟩
  · rw [hcode, Memory.read_writeRange, if_pos (by simpa using hi), Nat.sub_zero]
  · rw [hcode, Memory.read_writeRange_outside _ _ _ _ (.inr (by simpa using hi))]
    rfl

/-- A frame with a sample that is not finite fails before any cell is written (41_quantizer.md
R151; 45_control.md R231). -/
theorem exec_of_not_finite (hi : i = .quantize ∨ i = .encFrame) (hv : s.regs.cfgValid = true)
    (hfinite : ¬ s.FiniteSamples) :
    ∃ t, exec i s = .next t ∧ SameBuffers s t ∧ SameEnvironment s t ∧ t.pending = none ∧
      t.regs = s.regs.failedWith 0x12 := by
  have hframe : s.quantizeFrame = none := State.quantizeFrame_eq_none.mpr hfinite
  have hexec : exec i s = .next (s.drewSamples.fail .nonfiniteSample) := by
    rcases hi with rfl | rfl
    · rw [exec, execQuantize, whenConfigured_of_valid hv, hframe]
    · rw [exec, execEncFrame, whenConfigured_of_valid hv, hframe]
  refine ⟨_, hexec, fun b o => by simp, ⟨rfl, rfl, rfl⟩, rfl, ?_⟩
  rw [State.fail_eq]
  rfl

/-- Settles O31: the sample that is not finite is one of the frame's. -/
theorem nonfiniteSampleFails : Obligations.NonfiniteSampleFails := by
  intro i s k hi hv hk hnonfinite
  refine exec_of_not_finite hi hv fun hfinite => ?_
  exact Bool.false_ne_true (hnonfinite.symm.trans (hfinite k hk))

/-! ### The codes of each policy -/

theorem State.getElem?_sampleValues (s : State) {i : ℕ} (hi : i < s.regs.cfgSpf.toNat) :
    s.sampleValues[i]? = some (exactValue (s.sampleWord i)) := by
  simp [State.sampleValues, hi]

theorem State.getElem?_quantizedCodes_clipFloor (hpolicy : s.regs.cfgMode.getLsbD 0 = false)
    {i : ℕ} (hi : i < s.regs.cfgSpf.toNat) :
    s.quantizedCodes[i]? =
      some (BitVec.ofInt 8 (clipFloor (exactValue (s.sampleWord i)) s.regs.cfgBps.toNat)) := by
  rw [State.quantizedCodes, hpolicy]
  simp [frameCodes, s.getElem?_sampleValues hi]

theorem State.getElem?_quantizedCodes_percentile (hpolicy : s.regs.cfgMode.getLsbD 0 = true)
    {i : ℕ} (hi : i < s.regs.cfgSpf.toNat) :
    s.quantizedCodes[i]? =
      some (BitVec.ofNat 8 (percentileCode s.sampleValues (exactValue (s.sampleWord i)))) := by
  rw [State.quantizedCodes, hpolicy]
  simp [frameCodes, percentileCodes_eq_map, s.getElem?_sampleValues hi]

/-- Settles O29: an accepted configuration has at most 8 bits a sample, so the code fits its
byte. -/
theorem quantizeClipFloor : Obligations.QuantizeClipFloor := by
  intro s hinv hv hpolicy hfinite
  obtain ⟨t, hexec, hcode, hframe⟩ := exec_quantize_of_finite hv hfinite
  refine ⟨t, hexec, fun i hi => ?_, hframe⟩
  have hread := (hcode i hi).trans (s.getElem?_quantizedCodes_clipFloor hpolicy hi)
  have hvalue := toNat_ofInt_clipFloor (exactValue (s.sampleWord i)) (hinv.accepted hv).bps.2
  refine ⟨_, hread, hvalue, ?_⟩
  zify
  rw [hvalue]
  omega

/-- Settles O30: a code of at most 3 fits its byte, and the arrangement is the sorted one. -/
theorem quantizePercentile : Obligations.QuantizePercentile := by
  intro s y hinv hv hpolicy hfinite hperm hy
  obtain ⟨t, hexec, hcode, hframe⟩ := exec_quantize_of_finite hv hfinite
  refine ⟨t, hexec, fun i hi => ?_, hframe⟩
  have hvalues : s.sampleValues ≠ [] := List.ne_nil_of_length_pos (by simp; omega)
  have hle := percentileCode_le_three s.sampleValues (exactValue (s.sampleWord i))
  refine ⟨_, (hcode i hi).trans (s.getElem?_quantizedCodes_percentile hpolicy hi), ?_⟩
  rw [BitVec.toNat_ofNat, Nat.mod_eq_of_lt (by omega)]
  exact percentileCode_eq_countP_interpolated hvalues hperm hy _

/-! ### What the codes depend on -/

/-- Settles O34: both states have the same sample values, so the same codes or the same failure. -/
theorem quantizerIsPure : Obligations.QuantizerIsPure := by
  intro s s' t t' hv hv' hspf hbps hpolicy hsamples ht ht'
  have hvalues : s'.sampleValues = s.sampleValues := by
    rw [State.sampleValues, State.sampleValues, hspf]
    exact List.map_congr_left fun i hi => by rw [hsamples i (List.mem_range.mp hi)]
  have hcodes : s'.quantizedCodes = s.quantizedCodes := by
    rw [State.quantizedCodes, State.quantizedCodes, hpolicy, hbps, hvalues]
  have hsame : s'.FiniteSamples ↔ s.FiniteSamples := by
    rw [State.FiniteSamples, State.FiniteSamples, hspf]
    exact forall₂_congr fun i hi => by rw [hsamples i hi]
  by_cases hfinite : s.FiniteSamples
  · obtain ⟨_, h, hread, -, -, -, -, hregs⟩ := exec_quantize_of_finite hv hfinite
    obtain ⟨_, h', hread', -, -, -, -, hregs'⟩ :=
      exec_quantize_of_finite hv' (hsame.mpr hfinite)
    cases ht.symm.trans h
    cases ht'.symm.trans h'
    refine .inl ⟨hfinite, hregs, hregs', fun i hi => ?_⟩
    rw [hread i hi, hread' i (hspf ▸ hi), hcodes]
  · obtain ⟨_, h, hbuf, -, -, hregs⟩ := exec_of_not_finite (.inl rfl) hv hfinite
    obtain ⟨_, h', hbuf', -, -, hregs'⟩ :=
      exec_of_not_finite (.inl rfl) hv' (mt hsame.mp hfinite)
    cases ht.symm.trans h
    cases ht'.symm.trans h'
    exact .inr ⟨hfinite, hregs, hregs', hbuf, hbuf'⟩

end Sys2Proof.Machine
end

section
/-! The bit packer (42_bitpacker.md R170 to R176): the payload bit by bit, the bytes and the codes
read back from those bits, and the state PACK leaves. -/

namespace Sys2Proof.Machine

variable {b n m i k p : ℕ} {f g : ℕ → Bool}

/-! ### Numbers from bits -/

/-- The number whose binary digits are the first `n` bits of `f`, the first bit on top. -/
def bitsValue (n : ℕ) (f : ℕ → Bool) : ℕ :=
  (List.range n).foldl (fun acc j => 2 * acc + (f j).toNat) 0

@[simp] theorem bitsValue_zero (f : ℕ → Bool) : bitsValue 0 f = 0 := rfl

theorem bitsValue_succ (n : ℕ) (f : ℕ → Bool) :
    bitsValue (n + 1) f = 2 * bitsValue n f + (f n).toNat := by
  simp [bitsValue, List.range_succ]

theorem bitsValue_congr (h : ∀ j < n, f j = g j) : bitsValue n f = bitsValue n g := by
  induction n with
  | zero => rfl
  | succ n ih => rw [bitsValue_succ, bitsValue_succ, ih fun j hj => h j (by omega), h n (by omega)]

theorem testBit_bitsValue (n : ℕ) (f : ℕ → Bool) (i : ℕ) :
    (bitsValue n f).testBit i = (decide (i < n) && f (n - 1 - i)) := by
  induction n generalizing i with
  | zero => simp
  | succ n ih =>
    have hbit : (f n).toNat ≤ 1 := Bool.toNat_le (f n)
    have hhalf : (2 * bitsValue n f + (f n).toNat) / 2 = bitsValue n f := by omega
    have hlow : (2 * bitsValue n f + (f n).toNat) % 2 = (f n).toNat := by omega
    rw [bitsValue_succ]
    cases i with
    | zero => rw [Nat.testBit_zero, hlow]; simp
    | succ i =>
      rw [Nat.testBit_succ, hhalf, ih, show n + 1 - 1 - (i + 1) = n - 1 - i by omega]
      simp

theorem bitsValue_add (n m : ℕ) (f : ℕ → Bool) :
    bitsValue (n + m) f = bitsValue n f * 2 ^ m + bitsValue m fun j => f (n + j) := by
  induction m with
  | zero => simp
  | succ m ih => rw [← Nat.add_assoc, bitsValue_succ, bitsValue_succ, ih, pow_succ]; ring

/-- Cut into `m` groups of `b` bits, a number is the sum of the groups' numbers, each at its
place. -/
theorem bitsValue_mul (m b : ℕ) (f : ℕ → Bool) :
    bitsValue (m * b) f =
      ((List.range m).map fun i =>
        bitsValue b (fun j => f (i * b + j)) * 2 ^ (m * b - b * (i + 1))).sum := by
  induction m with
  | zero => simp
  | succ m ih =>
    have hlast : (m + 1) * b - b * (m + 1) = 0 := by rw [Nat.mul_comm, Nat.sub_self]
    have hshift : ∀ i ∈ List.range m,
        bitsValue b (fun j => f (i * b + j)) * 2 ^ ((m + 1) * b - b * (i + 1)) =
          bitsValue b (fun j => f (i * b + j)) * 2 ^ (m * b - b * (i + 1)) * 2 ^ b := by
      intro i hi
      have hle : b * (i + 1) ≤ m * b := by
        rw [Nat.mul_comm m]
        exact Nat.mul_le_mul_left b (List.mem_range.mp hi)
      rw [Nat.mul_assoc, ← pow_add, Nat.succ_mul, Nat.sub_add_comm hle]
    rw [List.range_succ, List.map_append, List.sum_append, List.map_congr_left hshift,
      List.sum_map_mul_right, ← ih, Nat.succ_mul, bitsValue_add, ← Nat.succ_mul]
    simp [hlast]

/-- The low `b` bits of a byte, most significant first, are its value modulo 2^b. -/
theorem bitsValue_getLsbD (b : ℕ) (c : Byte) :
    bitsValue b (fun j => c.getLsbD (b - 1 - j)) = c.toNat % 2 ^ b := by
  refine Nat.eq_of_testBit_eq fun i => ?_
  rw [testBit_bitsValue, Nat.testBit_mod_two_pow]
  by_cases hi : i < b
  · simp only [show b - 1 - (b - 1 - i) = i by omega]
    rfl
  · simp [hi]

/-! ### The payload bit by bit -/

/-- Bit 7 − t of a byte is bit t of the list it is made of (42_bitpacker.md R172). -/
theorem getLsbD_byteOfBits (bits : List Bool) {t : ℕ} (ht : t < 8) :
    (byteOfBits bits).getLsbD (7 - t) = bits.getD t false := by
  have hbyte : byteOfBits bits = BitVec.ofNat 8 (bitsValue 8 fun t => bits.getD t false) := rfl
  rw [hbyte, BitVec.getLsbD_ofNat, testBit_bitsValue, show 8 - 1 - (7 - t) = t by omega]
  simp [show 7 - t < 8 by omega]

theorem payloadBit_bytesOfStream (bits : List Bool) (hp : p < 8 * n) :
    payloadBit (bytesOfStream n bits) p = bits.getD p false := by
  induction n generalizing bits p with
  | zero => omega
  | succ n ih =>
    rcases Nat.lt_or_ge p 8 with hlt | hge
    · have hdiv : p / 8 = 0 := by omega
      have hmod : p % 8 = p := by omega
      rw [payloadBit, hdiv, hmod, bytesOfStream, List.getD_cons_zero, getLsbD_byteOfBits bits hlt]
    · obtain ⟨q, rfl⟩ := Nat.exists_eq_add_of_le' hge
      have htail : payloadBit (byteOfBits bits :: bytesOfStream n (bits.drop 8)) (q + 8) =
          payloadBit (bytesOfStream n (bits.drop 8)) q := by simp [payloadBit]
      rw [bytesOfStream, htail, ih _ (by omega)]
      simp [List.getD_eq_getElem?_getD, Nat.add_comm]

/-- Stream bit p is bit p mod b, from the top, of code p div b, and 0 past the last code
(42_bitpacker.md R172, R174). -/
theorem getD_codeStream (hb : 0 < b) (codes : List Byte) (p : ℕ) :
    (codeStream b codes).getD p false = (codes.getD (p / b) 0).getLsbD (b - 1 - p % b) := by
  induction codes generalizing p with
  | nil => simp [codeStream]
  | cons c cs ih =>
    have hlen : (codeBits b c).length = b := by simp [codeBits]
    have hstream : codeStream b (c :: cs) = codeBits b c ++ codeStream b cs := rfl
    rw [hstream]
    rcases Nat.lt_or_ge p b with hlt | hge
    · rw [List.getD_append _ _ _ _ (hlen.symm ▸ hlt), Nat.div_eq_of_lt hlt, Nat.mod_eq_of_lt hlt]
      simp [codeBits, hlt]
    · obtain ⟨q, rfl⟩ := Nat.exists_eq_add_of_le' hge
      rw [List.getD_append_right _ _ _ _ (hlen.symm ▸ hge), hlen, Nat.add_sub_cancel, ih,
        Nat.add_div_right q hb, Nat.add_mod_right, List.getD_cons_succ]

/-- Every bit of a payload comes from its code or is 0 (42_bitpacker.md R172, R174). -/
theorem payloadBit_packBytes (hb : 0 < b) (codes : List Byte) (hp : p < 8 * n) :
    payloadBit (packBytes b n codes) p = (codes.getD (p / b) 0).getLsbD (b - 1 - p % b) := by
  rw [packBytes, payloadBit_bytesOfStream _ hp, getD_codeStream hb]

/-! ### Bytes and codes from the payload's bits -/

/-- The `b` payload bits at the place of code `i` are the code modulo 2^b (42_bitpacker.md R175,
R176). -/
theorem bitsValue_payloadBit_packBytes (hb : 0 < b) (codes : List Byte) (hi : (i + 1) * b ≤ 8 * n) :
    bitsValue b (fun j => payloadBit (packBytes b n codes) (i * b + j)) =
      (codes.getD i 0).toNat % 2 ^ b := by
  rw [← bitsValue_getLsbD]
  refine bitsValue_congr fun j hj => ?_
  have hdiv : (i * b + j) / b = i := by
    rw [Nat.mul_comm, Nat.mul_add_div hb, Nat.div_eq_of_lt hj, Nat.add_zero]
  have hmod : (i * b + j) % b = j := by rw [Nat.mul_add_mod', Nat.mod_eq_of_lt hj]
  have hp : i * b + j < 8 * n := by
    rw [Nat.succ_mul] at hi
    omega
  rw [payloadBit_packBytes hb codes hp, hdiv, hmod]

/-- A payload byte is the number its eight bits write, bit 7 first. -/
theorem toNat_getD_eq_bitsValue (out : List Byte) (k : ℕ) :
    (out.getD k 0).toNat = bitsValue 8 fun t => payloadBit out (k * 8 + t) := by
  have hbyte : (out.getD k 0).toNat % 2 ^ 8 = (out.getD k 0).toNat :=
    Nat.mod_eq_of_lt (out.getD k 0).isLt
  rw [← hbyte, ← bitsValue_getLsbD]
  refine bitsValue_congr fun t ht => ?_
  rw [payloadBit, show (k * 8 + t) / 8 = k by omega, show (k * 8 + t) % 8 = t by omega]
  rfl

/-- A byte that `m` codes fill is the sum of those codes, the first on top (42_bitpacker.md
R173). -/
theorem toNat_getD_packBytes (hmb : m * b = 8) (hk : k < n) (codes : List Byte) :
    ((packBytes b n codes).getD k 0).toNat =
      ((List.range m).map fun i =>
        (codes.getD (k * m + i) 0).toNat % 2 ^ b * 2 ^ (8 - b * (i + 1))).sum := by
  have hb : 0 < b := Nat.pos_of_ne_zero fun h => by simp [h] at hmb
  have hgroups := bitsValue_mul m b fun t => payloadBit (packBytes b n codes) (k * 8 + t)
  rw [hmb] at hgroups
  rw [toNat_getD_eq_bitsValue, hgroups]
  refine congrArg List.sum (List.map_congr_left fun i hi => ?_)
  have hplace (j : ℕ) : k * 8 + (i * b + j) = (k * m + i) * b + j := by rw [← hmb]; ring
  have hfits : (k * m + i + 1) * b ≤ 8 * n := by
    have hgroup : (k * m + i + 1) * b ≤ (k + 1) * m * b :=
      Nat.mul_le_mul_right b (by rw [Nat.succ_mul]; have := List.mem_range.mp hi; omega)
    rw [Nat.mul_assoc, hmb] at hgroup
    omega
  simp only [hplace, bitsValue_payloadBit_packBytes hb codes hfits]

/-- Settles O36: 8 / b codes of b bits fill a byte. -/
theorem packGroupsWholeBytes : Obligations.PackGroupsWholeBytes := by
  intro b n k codes hb hk
  have hfill : 8 / b * b = 8 := by fin_cases hb <;> rfl
  exact toNat_getD_packBytes hfill hk codes

/-- Settles O37: each code is read from the `b` bits that packing placed. -/
theorem unpackInvertsPack : Obligations.UnpackInvertsPack := by
  intro b n codes hb _ hfits
  refine ⟨length_packBytes b n codes, ?_⟩
  refine List.ext_getElem (by simp [unpackCodes]) fun i hi hi' => ?_
  have hlt : i < codes.length := by simpa using hi'
  have hcode := bitsValue_payloadBit_packBytes hb codes
    ((Nat.mul_le_mul_right b hlt).trans hfits)
  rw [List.getD_eq_getElem _ _ hlt] at hcode
  simpa [unpackCodes, bitsValue] using hcode

/-! ### PACK -/

variable {s : State}

/-- What a command leaves that took `d` draws, wrote `bs` from the start of one buffer and
completed. -/
theorem State.complete_writeBytes (s : State) (d : ℕ) (b : BufName) (bs : List Byte) {t : State}
    (ht : t = ((s.drew d).writeBytes b 0 bs).complete) :
    (∀ o, o < bs.length → (t.buf b).read o = bs[o]?) ∧
      (∀ o, bs.length ≤ o → (t.buf b).read o = (s.buf b).read o) ∧
      SameBuffersBut b s t ∧ SameEnvironment s t ∧ t.pending = none ∧
      t.regs = { s.regs with done := true } := by
  have hbuf : t.buf b = (s.buf b).writeRange 0 bs := by simp [ht]
  refine ⟨fun o ho => ?_, fun o ho => ?_, fun c hc o => by simp [ht, hc],
    by simp [ht, SameEnvironment], by simp [ht], by simp [ht]⟩
  · rw [hbuf, Memory.read_writeRange, if_pos (by omega), Nat.sub_zero]
  · rw [hbuf, Memory.read_writeRange_outside _ _ _ _ (.inr (by omega))]

/-- PACK under a valid configuration writes the payload of the codes in CODE and completes
(42_bitpacker.md R170). -/
theorem exec_pack_of_valid (hv : s.regs.cfgValid = true) :
    exec .pack s = .next ((s.drew s.regs.spf).writeBytes .pay 0 s.packCodes).complete := by
  rw [exec, execPack, whenConfigured_of_valid hv, State.writePayload]

/-- The codes PACK reads are the first N cells of CODE; past them it packs 0 (42_bitpacker.md
R174). -/
theorem State.getD_readBytes_code (s : State) (n i : ℕ) :
    (s.readBytes .code 0 n 0).getD i 0 = if i < n then s.readCell .code i i else 0 := by
  split_ifs with hi
  · simp [List.getD_eq_getElem?_getD, s.getElem?_readBytes .code 0 0 hi]
  · exact List.getD_eq_default _ _ (by simpa using hi)

/-- Stream bit p of the payload is a bit of code p div b while the N codes last, and 0 after them
(42_bitpacker.md R172, R174, R175). -/
theorem State.payloadBit_packCodes (s : State) (hb : 0 < s.regs.cfgBps.toNat)
    (hp : p < 8 * s.regs.payloadLength) :
    payloadBit s.packCodes p =
      if p < s.regs.cfgSpf.toNat * s.regs.cfgBps.toNat then
        (s.readCell .code (p / s.regs.cfgBps.toNat) (p / s.regs.cfgBps.toNat)).getLsbD
          (s.regs.cfgBps.toNat - 1 - p % s.regs.cfgBps.toNat)
      else false := by
  have hbit : payloadBit s.packCodes p =
      ((s.readBytes .code 0 s.regs.cfgSpf.toNat 0).getD (p / s.regs.cfgBps.toNat) 0).getLsbD
        (s.regs.cfgBps.toNat - 1 - p % s.regs.cfgBps.toNat) := payloadBit_packBytes hb _ hp
  rw [hbit, s.getD_readBytes_code]
  simp only [Nat.div_lt_iff_lt_mul hb]
  split_ifs
  · rfl
  · exact BitVec.getLsbD_zero

/-- Settles O35: an accepted configuration's PAYLOAD_BYTES is the length the rule computes. -/
theorem packWritesBitStream : Obligations.PackWritesBitStream := by
  intro s hinv hv
  obtain ⟨hpay, hkept, hframe⟩ := s.complete_writeBytes s.regs.spf .pay s.packCodes rfl
  have hlen : s.packCodes.length = (s.regs.cfgSpf.toNat * s.regs.cfgBps.toNat + 7) / 8 :=
    s.length_packCodes.trans (hinv.derived hv).payload
  rw [← hlen]
  refine ⟨_, exec_pack_of_valid hv, fun p hp => ?_, hkept, hframe⟩
  have hbyte : p / 8 < s.packCodes.length := by omega
  refine ⟨s.packCodes[p / 8], ?_, ?_⟩
  · exact (hpay _ hbyte).trans (List.getElem?_eq_getElem hbyte)
  · rw [s.length_packCodes] at hp
    rw [← s.payloadBit_packCodes (hinv.accepted hv).bps.1 hp, payloadBit,
      List.getD_eq_getElem _ _ hbyte]

end Sys2Proof.Machine
end

section
/-! The calendar (43_header.md R191 to R193, R203): years counted from 1 March, in which the leap
day is the last, and half-years. The index of a second is adjoint to the start of a half-year, and
its bracket, its monotonicity and its range follow from that. -/

namespace Sys2Proof.Machine

variable {y doy doe z x k : ℤ}

/-! ### Years that begin on 1 March -/

/-- The days from 0000-03-01 to 1 March of year `y`. -/
def marchYearStart (y : ℤ) : ℤ := 365 * y + y / 4 - y / 100 + y / 400

/-- The year of the day `doe` of an era, as `civilFromDays` computes it (43_header.md R191). -/
def yearOfEra (doe : ℤ) : ℤ := (doe - doe / 1460 + doe / 36524 - doe / 146096) / 365

theorem yearOfEra_mono : Monotone yearOfEra := fun a b hab =>
  Int.ediv_le_ediv (by decide) (by omega)

/-- The computed year changes exactly at each of the 400 year starts of an era. -/
theorem yearOfEra_at_marchYearStart : ∀ n < 400,
    yearOfEra (marchYearStart (n + 1 : ℕ) - 1) < (n + 1 : ℕ) ∧
      (n + 1 : ℕ) ≤ yearOfEra (marchYearStart (n + 1 : ℕ)) := by
  decide +kernel

theorem le_yearOfEra_iff (hy₀ : 1 ≤ y) (hy : y ≤ 400) :
    y ≤ yearOfEra doe ↔ marchYearStart y ≤ doe := by
  obtain ⟨n, rfl⟩ : ∃ n : ℕ, y = (n + 1 : ℕ) := ⟨(y - 1).toNat, by omega⟩
  obtain ⟨hbefore, hat⟩ := yearOfEra_at_marchYearStart n (by omega)
  refine ⟨fun h => ?_, fun h => hat.trans (yearOfEra_mono h)⟩
  by_contra hlt
  have := yearOfEra_mono (show doe ≤ marchYearStart (n + 1 : ℕ) - 1 by omega)
  omega

/-- A day of an era lies in the year computed for it. -/
theorem yearOfEra_spec (h₀ : 0 ≤ doe) (h : doe < 146097) :
    0 ≤ yearOfEra doe ∧ yearOfEra doe < 400 ∧ marchYearStart (yearOfEra doe) ≤ doe ∧
      doe < marchYearStart (yearOfEra doe + 1) := by
  have hnonneg : 0 ≤ yearOfEra doe := yearOfEra_mono h₀
  have hlt : yearOfEra doe < 400 := by
    have := le_yearOfEra_iff (y := 400) (doe := doe) (by decide) (by decide)
    have hera : marchYearStart 400 = 146097 := rfl
    omega
  refine ⟨hnonneg, hlt, ?_, ?_⟩
  · obtain hzero | hpos := hnonneg.eq_or_lt
    · rwa [← hzero]
    · exact (le_yearOfEra_iff hpos hlt.le).mp le_rfl
  · have := le_yearOfEra_iff (y := yearOfEra doe + 1) (doe := doe) (by omega) (by omega)
    omega

/-- Every era of 400 years has 146097 days. -/
theorem marchYearStart_add_eras (y era : ℤ) :
    marchYearStart (y + era * 400) = marchYearStart y + era * 146097 := by
  simp only [marchYearStart]
  omega

/-- The day count `z` is day `doy` of the year `y` that begins on 1 March. -/
structure IsMarchDate (z y doy : ℤ) : Prop where
  nonneg : 0 ≤ doy
  day : z + 719468 = marchYearStart y + doy
  inYear : z + 719468 < marchYearStart (y + 1)

theorem IsMarchDate.le_365 (h : IsMarchDate z y doy) : doy ≤ 365 := by
  obtain ⟨-, hday, hyear⟩ := h
  simp only [marchYearStart] at hday hyear
  omega

/-- The date of day `doy` of a year that begins on 1 March. -/
def civilOfMarch (y doy : ℤ) : Civil :=
  let mp := (5 * doy + 2) / 153
  let m := if mp < 10 then mp + 3 else mp - 9
  { year := y + (if m ≤ 2 then 1 else 0), month := m, day := doy - (153 * mp + 2) / 5 + 1 }

theorem civilFromDays_eq (z : ℤ) :
    ∃ y doy, IsMarchDate z y doy ∧ civilFromDays z = civilOfMarch y doy := by
  set era := (z + 719468) / 146097 with hera
  set doe := z + 719468 - era * 146097 with hdoe
  obtain ⟨hnonneg, hlt, hstart, hend⟩ := yearOfEra_spec (doe := doe) (by omega) (by omega)
  have hyear := marchYearStart_add_eras (yearOfEra doe) era
  have hnext := marchYearStart_add_eras (yearOfEra doe + 1) era
  rw [add_right_comm] at hnext
  have hdoy : 365 * yearOfEra doe + yearOfEra doe / 4 - yearOfEra doe / 100 =
      marchYearStart (yearOfEra doe) := by
    simp only [marchYearStart]
    omega
  refine ⟨yearOfEra doe + era * 400, doe - marchYearStart (yearOfEra doe),
    ⟨by omega, by omega, by omega⟩, ?_⟩
  rw [← hdoy]
  rfl

theorem daysFromCivil_eq (c : Civil) :
    daysFromCivil c = marchYearStart (c.year - if c.month ≤ 2 then 1 else 0) +
      (153 * ((c.month + 9) % 12) + 2) / 5 + c.day - 1 - 719468 := by
  simp only [daysFromCivil, marchYearStart]
  omega

theorem daysFromCivil_civilOfMarch (h₀ : 0 ≤ doy) (h : doy ≤ 365) :
    daysFromCivil (civilOfMarch y doy) = marchYearStart y + doy - 719468 := by
  have hmonth : (5 * doy + 2) / 153 < 12 := by omega
  rw [daysFromCivil_eq, civilOfMarch]
  by_cases hmp : (5 * doy + 2) / 153 < 10
  · have hm : ¬ (5 * doy + 2) / 153 + 3 ≤ 2 := by omega
    simp only [hmp, hm, if_true, if_false, add_zero, sub_zero]
    omega
  · have hm : (5 * doy + 2) / 153 - 9 ≤ 2 := by omega
    simp only [hmp, hm, if_true, if_false, add_sub_cancel_right]
    omega

theorem civilOfMarch_isDate (h₀ : 0 ≤ doy) (h : doy ≤ 365) :
    1 ≤ (civilOfMarch y doy).month ∧ (civilOfMarch y doy).month ≤ 12 ∧
      1 ≤ (civilOfMarch y doy).day ∧ (civilOfMarch y doy).day ≤ 31 := by
  simp only [civilOfMarch]
  split_ifs <;> omega

/-- Settles O42: both functions go through the year that begins on 1 March. -/
theorem calendarRoundTrip : Obligations.CalendarRoundTrip := by
  intro z _ _
  obtain ⟨y, doy, hdate, hcivil⟩ := civilFromDays_eq z
  rw [hcivil]
  refine ⟨?_, civilOfMarch_isDate hdate.nonneg hdate.le_365⟩
  rw [daysFromCivil_civilOfMarch hdate.nonneg hdate.le_365, ← hdate.day, add_sub_cancel_right]

/-! ### Half-years -/

/-- 1 January is day 306 of the March year before its own. -/
theorem halfYearStart_january (hk : k = 2 * (y - 1999)) :
    halfYearStart k = (marchYearStart y + 306 - 719468) * 86400 := by
  have hdiv : 2000 + k / 2 = y + 1 := by omega
  have hmod : k % 2 = 0 := by omega
  simp only [halfYearStart, daysFromCivil_eq, hdiv, hmod, if_true]
  norm_num

/-- 1 July is day 122 of the March year. -/
theorem halfYearStart_july (hk : k = 2 * (y - 2000) + 1) :
    halfYearStart k = (marchYearStart y + 122 - 719468) * 86400 := by
  have hdiv : 2000 + k / 2 = y := by omega
  have hmod : k % 2 = 1 := by omega
  simp only [halfYearStart, daysFromCivil_eq, hdiv, hmod]
  norm_num

theorem marchYearStart_succ (y : ℤ) :
    marchYearStart y + 365 ≤ marchYearStart (y + 1) ∧
      marchYearStart (y + 1) ≤ marchYearStart y + 366 := by
  simp only [marchYearStart]
  omega

/-- A half-year has at most 184 days, and at least one (43_header.md R196). -/
theorem halfYearStart_succ (k : ℤ) :
    halfYearStart k < halfYearStart (k + 1) ∧
      halfYearStart (k + 1) ≤ halfYearStart k + 184 * 86400 := by
  obtain ⟨j, hj | hj⟩ := Int.even_or_odd' k
  · have hyear := marchYearStart_succ (j + 1999)
    rw [halfYearStart_january (y := j + 1999) (by omega),
      halfYearStart_july (y := j + 1999 + 1) (by omega)]
    omega
  · rw [halfYearStart_july (y := j + 2000) (by omega),
      halfYearStart_january (y := j + 2000) (by omega)]
    omega

/-- The three parts of a March year: before 1 July, before 1 January, and the rest. -/
theorem refEpochMath_cases (hdate : IsMarchDate (x / 86400) y doy)
    (hcivil : civilFromDays (x / 86400) = civilOfMarch y doy) :
    (doy < 122 ∧ refEpochMath x = 2 * (y - 2000)) ∨
      (122 ≤ doy ∧ doy < 306 ∧ refEpochMath x = 2 * (y - 2000) + 1) ∨
      (306 ≤ doy ∧ refEpochMath x = 2 * (y - 1999)) := by
  have h₀ := hdate.nonneg
  have h := hdate.le_365
  simp only [refEpochMath, hcivil, civilOfMarch]
  split_ifs <;> omega

/-- A second lies in the half-year of its index (43_header.md R193), whatever the second. -/
theorem halfYearStart_refEpochMath (x : ℤ) :
    halfYearStart (refEpochMath x) ≤ x ∧ x < halfYearStart (refEpochMath x + 1) := by
  obtain ⟨y, doy, hdate, hcivil⟩ := civilFromDays_eq (x / 86400)
  have hparts := refEpochMath_cases hdate hcivil
  obtain ⟨hdoy, hday, hyear⟩ := hdate
  obtain ⟨hjuly, hk⟩ | ⟨hjuly, hjanuary, hk⟩ | ⟨hjanuary, hk⟩ := hparts
  · have hprev := marchYearStart_succ (y - 1)
    rw [sub_add_cancel] at hprev
    rw [halfYearStart_january (y := y - 1) (by omega), halfYearStart_july (y := y) (by omega)]
    omega
  · rw [halfYearStart_july (y := y) (by omega), halfYearStart_january (y := y) (by omega)]
    omega
  · have hnext := marchYearStart_succ y
    rw [halfYearStart_january (y := y) (by omega), halfYearStart_july (y := y + 1) (by omega)]
    omega

theorem halfYearStart_strictMono : StrictMono halfYearStart :=
  strictMono_int_of_lt_succ fun k => (halfYearStart_succ k).1

/-- The index is the greatest half-year that has begun (43_header.md R193). -/
theorem halfYearStart_refEpochMath_gc : GaloisConnection halfYearStart refEpochMath := by
  intro k x
  obtain ⟨hle, hlt⟩ := halfYearStart_refEpochMath x
  refine ⟨fun h => ?_, fun h => (halfYearStart_strictMono.monotone h).trans hle⟩
  exact Int.lt_add_one_iff.mp (halfYearStart_strictMono.lt_iff_lt.mp (h.trans_lt hlt))

theorem le_refEpochMath_iff : k ≤ refEpochMath x ↔ halfYearStart k ≤ x :=
  (halfYearStart_refEpochMath_gc k x).symm

theorem refEpochMath_lt_iff : refEpochMath x < k ↔ x < halfYearStart k :=
  halfYearStart_refEpochMath_gc.lt_iff_lt.symm

/-- Settles O40: the first second begins half-year −60, and half-year 213 begins past the last. -/
theorem halfYearBracketsSecond : Obligations.HalfYearBracketsSecond := by
  intro x h₀ h
  obtain ⟨hle, hlt⟩ := halfYearStart_refEpochMath x
  have hfirst : halfYearStart (-60) = 0 := rfl
  have hlast : 2 ^ 32 ≤ halfYearStart 213 := by decide
  exact ⟨hle, hlt, le_refEpochMath_iff.mpr (hfirst ▸ h₀),
    Int.lt_add_one_iff.mp (refEpochMath_lt_iff.mpr (h.trans_le hlast))⟩

theorem refEpochMath_halfYearStart (k : ℤ) : refEpochMath (halfYearStart k) = k :=
  halfYearStart_strictMono.injective (halfYearStart_refEpochMath_gc.l_u_l_eq_l k)

theorem refEpochMath_halfYearStart_sub_one (k : ℤ) :
    refEpochMath (halfYearStart k - 1) = k - 1 := by
  have hlt : refEpochMath (halfYearStart k - 1) < k := refEpochMath_lt_iff.mpr (by omega)
  have hle : k - 1 ≤ refEpochMath (halfYearStart k - 1) :=
    le_refEpochMath_iff.mpr (Int.le_sub_one_of_lt (halfYearStart_strictMono (by omega)))
  omega

/-- Settles O41: the index is an upper adjoint of a strictly increasing function. -/
theorem refEpochIsMonotone : Obligations.RefEpochIsMonotone :=
  ⟨fun _ _ _ hxy _ => halfYearStart_refEpochMath_gc.monotone_u hxy,
    fun k _ _ => ⟨refEpochMath_halfYearStart k, refEpochMath_halfYearStart_sub_one k⟩⟩

/-- Settles O43: half-years 0 to 63 are those of 2000 to 2031. -/
theorem refEpochFieldWraps : Obligations.RefEpochFieldWraps := by
  refine ⟨fun x h₀ h => ?_, by decide, by decide, by decide, by decide⟩
  have hfirst : halfYearStart 0 = 946684800 := rfl
  have hlast : halfYearStart 64 = 1956528000 := rfl
  exact Int.emod_eq_of_lt (le_refEpochMath_iff.mpr (hfirst ▸ h₀))
    (refEpochMath_lt_iff.mpr (hlast ▸ h))

/-- The offset from the start of the half-year (43_header.md R196). -/
theorem sub_halfYearStart_bounds (x : ℤ) :
    0 ≤ x - halfYearStart (refEpochMath x) ∧
      x - halfYearStart (refEpochMath x) ≤ 15897599 := by
  obtain ⟨hle, hlt⟩ := halfYearStart_refEpochMath x
  have := (halfYearStart_succ (refEpochMath x)).2
  omega

end Sys2Proof.Machine
end

section
/-! ENC_HDR (43_header.md R190, R194 to R202; 30_encoding.md R96 to R102): the header words field by
field, the words read back from HDR, and the state the command leaves. -/

namespace Sys2Proof.Machine

variable {s : State} {r : Regs} {a b c : Word} {m n : ℕ}

/-! ### Fields of a word -/

/-- A field above another one: they do not overlap, so they add up. -/
theorem toNat_shiftLeft_or (hb : b.toNat < 2 ^ n) (ha : a.toNat * 2 ^ n < 2 ^ 32) :
    (a <<< n ||| b).toNat = a.toNat * 2 ^ n + b.toNat := by
  rw [BitVec.toNat_or, BitVec.toNat_shiftLeft, Nat.shiftLeft_eq, Nat.mod_eq_of_lt ha, mul_comm,
    Nat.two_pow_add_eq_or_of_lt hb]

theorem toNat_shiftLeft_or_shiftLeft_or (hc : c.toNat < 2 ^ n)
    (hb : b.toNat * 2 ^ n + c.toNat < 2 ^ m) (ha : a.toNat * 2 ^ m < 2 ^ 32) (hm : m ≤ 32) :
    (a <<< m ||| b <<< n ||| c).toNat = a.toNat * 2 ^ m + b.toNat * 2 ^ n + c.toNat := by
  have hword : 2 ^ m ≤ 2 ^ 32 := Nat.pow_le_pow_right (by decide) hm
  have hlow := toNat_shiftLeft_or (a := b) hc (by omega)
  rw [BitVec.or_assoc, toNat_shiftLeft_or (hlow ▸ hb) ha, hlow, add_assoc]

/-- The low `n` bits of a register, as a word. -/
theorem toNat_lowBits {w : ℕ} (x : BitVec w) (hn : n ≤ 32) :
    ((x.extractLsb' 0 n).setWidth 32).toNat = x.toNat % 2 ^ n := by
  rw [BitVec.toNat_setWidth_of_le hn, BitVec.extractLsb'_toNat, Nat.shiftRight_zero]

theorem toNat_ofInt_of_nonneg {z : ℤ} (h₀ : 0 ≤ z) (h : z < 2 ^ 32) :
    ((BitVec.ofInt 32 z).toNat : ℤ) = z := by
  rw [BitVec.toNat_ofInt]
  omega

/-! ### The header words -/

theorem Regs.toNat_headerWord0 (r : Regs) :
    (r.headerWord0.toNat : ℤ) =
      if r.cfgMode.getLsbD 1 then
        r.epochSeconds.toNat - halfYearStart (refEpochMath r.epochSeconds.toNat)
      else r.epochSeconds.toNat % 2 ^ 30 := by
  obtain ⟨h₀, h⟩ := sub_halfYearStart_bounds r.epochSeconds.toNat
  rw [Regs.headerWord0, Regs.secondsField, Regs.secMode, Regs.refEpoch]
  split_ifs
  · exact toNat_ofInt_of_nonneg h₀ (by omega)
  · rw [toNat_lowBits _ (by decide)]
    norm_cast

/-- The index modulo 64 fills 6 bits, so it and the frame number stand whole in word 1. -/
theorem Regs.toNat_headerWord1 (r : Regs) :
    (r.headerWord1.toNat : ℤ) =
      refEpochMath r.epochSeconds.toNat % 64 * 2 ^ 26 + r.frameNumber.toNat % 2 ^ 24 := by
  have hindex := toNat_ofInt_of_nonneg (z := r.refEpoch % 64) (by omega) (by omega)
  have hframe := toNat_lowBits r.frameNumber (n := 24) (by decide)
  rw [Regs.headerWord1, toNat_shiftLeft_or (by omega) (by omega), hframe]
  push_cast
  rw [hindex, Regs.refEpoch]

theorem Regs.toNat_headerWord2 (hversion : r.cfgVdifVersion.toNat ≤ 7)
    (hunits : r.frameLengthUnits.toNat < 2 ^ 24) :
    r.headerWord2.toNat = r.cfgVdifVersion.toNat * 2 ^ 29 + r.log2Channels.toNat * 2 ^ 24 +
      r.frameLengthUnits.toNat := by
  have hv : ((r.cfgVdifVersion.extractLsb' 0 3).setWidth 32).toNat = r.cfgVdifVersion.toNat :=
    (toNat_lowBits _ (by decide)).trans (Nat.mod_eq_of_lt (by omega))
  have hc : (r.log2Channels.setWidth 32).toNat = r.log2Channels.toNat :=
    BitVec.toNat_setWidth_of_le (by decide)
  have hu : ((r.frameLengthUnits.extractLsb' 0 24).setWidth 32).toNat =
      r.frameLengthUnits.toNat :=
    (toNat_lowBits _ (by decide)).trans (Nat.mod_eq_of_lt hunits)
  have := r.log2Channels.isLt
  rw [Regs.headerWord2, toNat_shiftLeft_or_shiftLeft_or (by omega) (by omega) (by omega)
    (by decide), hv, hc, hu]

theorem Regs.toNat_headerWord3 (hbps : 1 ≤ r.cfgBps.toNat ∧ r.cfgBps.toNat ≤ 8)
    (hthread : r.cfgThreadId.toNat ≤ 1023) :
    r.headerWord3.toNat = (r.cfgBps.toNat - 1) * 2 ^ 26 + r.cfgThreadId.toNat * 2 ^ 16 +
      r.cfgStationId.toNat := by
  have hb : (r.cfgBps.setWidth 32 - 1).toNat = r.cfgBps.toNat - 1 := by
    have := BitVec.toNat_setWidth_of_le (b := r.cfgBps) (show 8 ≤ 32 by decide)
    rw [BitVec.toNat_sub_of_le (by rw [BitVec.le_def, this]; exact hbps.1), this]
    rfl
  have ht : ((r.cfgThreadId.extractLsb' 0 10).setWidth 32).toNat = r.cfgThreadId.toNat :=
    (toNat_lowBits _ (by decide)).trans (Nat.mod_eq_of_lt (by omega))
  have hs : (r.cfgStationId.setWidth 32).toNat = r.cfgStationId.toNat :=
    BitVec.toNat_setWidth_of_le (by decide)
  have := r.cfgStationId.isLt
  rw [Regs.headerWord3, toNat_shiftLeft_or_shiftLeft_or (by omega) (by omega) (by omega)
    (by decide), hb, ht, hs]

/-! ### HDR after the command -/

/-- Byte j of word i of a list of words is byte 4i + j of the list's bytes (30_encoding.md R101). -/
theorem getElem?_flatMap_wordBytes (ws : List Word) {i j : ℕ} (hj : j < 4) :
    (ws.flatMap wordBytes)[4 * i + j]? = ws[i]?.map (wordByte · j) := by
  induction ws generalizing i with
  | nil => simp
  | cons v ws ih =>
    rw [List.flatMap_cons]
    cases i with
    | zero =>
      rw [List.getElem?_append_left (by simpa using hj)]
      interval_cases j <;> rfl
    | succ i =>
      rw [List.getElem?_append_right (by simp; omega), length_wordBytes,
        show 4 * (i + 1) + j - 4 = 4 * i + j by omega, ih, List.getElem?_cons_succ]

/-- Four written cells that hold a word's bytes read as the word (20_memory.md R68). -/
theorem State.readWord_of_cells {b : BufName} {o : ℕ} {v : Word}
    (h : ∀ j < 4, (s.buf b).read (o + j) = some (wordByte v j)) : s.readWord b o = v := by
  have hcell (j : ℕ) (hj : j < 4) : s.readCell b (o + j) j = wordByte v j :=
    State.readCell_of_some j (h j hj)
  rw [State.readWord, ← wordOfBytes_wordByte v, ← hcell 0 (by decide), ← hcell 1 (by decide),
    ← hcell 2 (by decide), ← hcell 3 (by decide), add_zero]

/-- ENC_HDR under a valid configuration leaves the eight header words in HDR and completes
(43_header.md R190, R202). -/
theorem exec_encHdr_of_valid (hv : s.regs.cfgValid = true) :
    ∃ t, exec .encHdr s = .next t ∧
      (∀ i v, s.regs.headerWords[i]? = some v → t.readWord .hdr (4 * i) = v) ∧
      (∀ o, o < 32 → (t.hdr.read o).isSome = true) ∧
      (∀ o, 32 ≤ o → t.hdr.read o = s.hdr.read o) ∧
      SameBuffersBut .hdr s t ∧ SameEnvironment s t ∧ t.draws = s.draws ∧ t.pending = none ∧
      t.regs = { s.regs with done := true } := by
  have hexec : exec .encHdr s = .next s.writeHeader.complete := by
    rw [exec, execEncHdr, whenConfigured_of_valid hv]
  obtain ⟨hwritten, hkept, hbuffers, henvironment, hpending, hregs⟩ :=
    s.complete_writeBytes 0 .hdr s.regs.headerBytes (t := s.writeHeader.complete) rfl
  rw [Regs.length_headerBytes] at hwritten hkept
  refine ⟨_, hexec, fun i v hiv => ?_, fun o ho => ?_, hkept, hbuffers, henvironment, by simp,
    hpending, hregs⟩
  · have hi : i < 8 := (List.getElem?_eq_some_iff.mp hiv).1
    refine State.readWord_of_cells fun j hj => ?_
    rw [hwritten _ (by omega), Regs.headerBytes, getElem?_flatMap_wordBytes _ hj, hiv,
      Option.map_some]
  · have hbyte : s.writeHeader.complete.hdr.read o = s.regs.headerBytes[o]? := hwritten o ho
    rw [hbyte, List.getElem?_eq_getElem (by simpa using ho), Option.isSome_some]

/-- Settles O38: an accepted configuration's fields fit their places. -/
theorem encodeHeaderWritesHeader : Obligations.EncodeHeaderWritesHeader := by
  intro s hinv hv
  obtain ⟨t, hexec, hwords, hframe⟩ := exec_encHdr_of_valid hv
  have haccepted := hinv.accepted hv
  obtain ⟨-, -, -, -, hunits, -⟩ := acceptedFrameSizesAreBounded s hinv hv
  refine ⟨t, hexec, ?_, ?_, ?_, ?_, fun o ho => ?_, hframe⟩
  · rw [hwords 0 _ rfl, Regs.toNat_headerWord0]
  · rw [hwords 1 _ rfl, Regs.toNat_headerWord1]
  · rw [hwords 2 _ rfl, Regs.toNat_headerWord2 haccepted.version hunits]
  · rw [hwords 3 _ rfl, Regs.toNat_headerWord3 haccepted.bps haccepted.thread]
  · simp only [List.mem_cons, List.not_mem_nil, or_false] at ho
    rcases ho with rfl | rfl | rfl | rfl
    exacts [hwords 4 0 rfl, hwords 5 0 rfl, hwords 6 0 rfl, hwords 7 0 rfl]

/-- Settles O39: the seconds field is below 2 ^ 30, a remainder or an offset in a half-year. -/
theorem secondsFieldFitsThirtyBits : Obligations.SecondsFieldFitsThirtyBits := by
  intro s hv
  obtain ⟨t, hexec, hwords, -, -, hbuffers, henvironment, -, hpending, hregs⟩ :=
    exec_encHdr_of_valid hv
  have hword : t.readWord .hdr 0 = s.regs.headerWord0 := hwords 0 _ rfl
  have hbounds := sub_halfYearStart_bounds s.regs.epochSeconds.toNat
  have hvalue := s.regs.toNat_headerWord0
  rw [← hword] at hvalue
  have hlt : (t.readWord .hdr 0).toNat < 2 ^ 30 := by
    split_ifs at hvalue <;> omega
  refine ⟨t, hexec, Nat.testBit_lt_two_pow (hlt.trans (by decide)), Nat.testBit_lt_two_pow hlt,
    fun hmode => ?_, hbuffers, henvironment, hpending, hregs⟩
  rw [if_pos hmode] at hvalue
  omega

end Sys2Proof.Machine
end

section
/-! ASSEMBLE (44_assembler.md R220, R221): the bytes it copies, header then payload, and the state
it leaves. -/

namespace Sys2Proof.Machine

variable {s : State} {i : ℕ}

/-- The first 32 bytes assembled are the header's cells. -/
theorem State.getElem?_assembledBytes_header (s : State) (hi : i < 32) :
    s.assembledBytes[i]? = some (s.readCell .hdr i i) := by
  rw [State.assembledBytes, Config.headerLength, List.getElem?_append_left (by simpa using hi),
    s.getElem?_readBytes .hdr 0 0 hi, Nat.zero_add]

/-- The bytes assembled after the header are the payload's cells, their draw places after the
header's. -/
theorem State.getElem?_assembledBytes_payload (s : State) (hi : i < s.regs.payloadLength) :
    s.assembledBytes[32 + i]? = some (s.readCell .pay i (32 + i)) := by
  rw [State.assembledBytes, Config.headerLength, List.getElem?_append_right (by simp),
    State.length_readBytes, Nat.add_sub_cancel_left, s.getElem?_readBytes .pay 0 32 hi,
    Nat.zero_add]

/-- ASSEMBLE under a valid configuration writes header and payload into FRAME and completes
(44_assembler.md R220). -/
theorem exec_assemble_of_valid (hv : s.regs.cfgValid = true) :
    exec .assemble s = .next s.writeFrame.complete := by
  rw [exec, execAssemble, whenConfigured_of_valid hv]

/-- Settles O44: the command writes the 32 + P assembled bytes from the start of FRAME. -/
theorem assembleCopiesHeaderAndPayload : Obligations.AssembleCopiesHeaderAndPayload := by
  intro s hv
  obtain ⟨hwritten, hkept, hframe⟩ := s.complete_writeBytes
    (Config.headerLength + s.regs.payloadLength) .frame s.assembledBytes
    (t := s.writeFrame.complete) rfl
  rw [State.length_assembledBytes] at hwritten hkept
  refine ⟨_, exec_assemble_of_valid hv, fun i hi => ?_, fun i hi => ?_, hkept, hframe⟩
  · exact (hwritten i (by omega)).trans (s.getElem?_assembledBytes_header hi)
  · exact (hwritten (32 + i) (Nat.add_lt_add_left hi 32)).trans
      (s.getElem?_assembledBytes_payload hi)

end Sys2Proof.Machine
end

section
/-! Control commands (45_control.md R230, R232 to R234): the states that NOP, SOFT_RESET and an
illegal command leave, and the configuration gate of the encode commands. -/

namespace Sys2Proof.Machine

variable {s : State} {i : Instr}

/-- Settles O11: NOP's word encodes it. -/
theorem nopOnlyCompletes : Obligations.NopOnlyCompletes :=
  ⟨decode_encode (i := .nop) rfl, fun _ => rfl⟩

/-- Settles O12: the word decodes to the illegal command, and the failure path records the first
error or that there is another. -/
theorem illegalCommandIsRecorded : Obligations.IllegalCommandIsRecorded := by
  intro w s hw
  rw [decode_of_illegalWord (illegalWord_iff_toNat.mpr hw), exec, execIllegal, State.fail]
  rcases s.regs.recordError_cases .illegalCmd with ⟨herr, hrecord⟩ | ⟨herr, hrecord⟩
  · simp [hrecord, herr]
  · simp [hrecord, herr, CmdError.code]

/-- Settles O13: only DONE is left set in STATUS, and IRQ_EN is 0. -/
theorem softResetRestoresRegisters : Obligations.SoftResetRestoresRegisters := by
  refine ⟨decode_encode (i := .softReset) rfl, fun s => ⟨_, rfl, rfl, ?_, ?_⟩⟩
  · simp [State.statusWord, State.busy, Regs.reset, flagBit]
  · simp [State.irq, Regs.reset]

/-- The gate stops each encode command before it does anything (45_control.md R234). -/
theorem exec_of_invalid (hi : i ∈ encodeCommands) (hv : s.regs.cfgValid = false) :
    exec i s = .next (s.fail .notConfigured) := by
  simp only [List.mem_cons, List.not_mem_nil, or_false] at hi
  rcases hi with rfl | rfl | rfl | rfl | rfl
  · rw [exec, execEncHdr, whenConfigured_of_invalid hv]
  · rw [exec, execQuantize, whenConfigured_of_invalid hv]
  · rw [exec, execPack, whenConfigured_of_invalid hv]
  · rw [exec, execAssemble, whenConfigured_of_invalid hv]
  · rw [exec, execEncFrame, whenConfigured_of_invalid hv]

/-- Settles O20: the gate's failure writes no buffer cell. -/
theorem encodeNeedsValidConfiguration : Obligations.EncodeNeedsValidConfiguration := by
  intro i s hi hv
  rw [exec_of_invalid hi hv, State.fail_eq, CmdError.code]

end Sys2Proof.Machine
end

section
/-! The chain of ENC_FRAME (45_control.md R231, R235): the bytes each part leaves in its buffer, all
of them functions of the registers and the samples, and the state the whole command leaves. -/

namespace Sys2Proof.Machine

variable {s : State} {i : Instr}

/-! ### Bytes just written are read back -/

theorem Memory.map_read_writeRange (m : Memory) (bs : List Byte) :
    (List.range bs.length).map (m.writeRange 0 bs).read = bs.map some := by
  refine List.ext_getElem (by simp) fun i hi _ => ?_
  have hlt : i < bs.length := by simpa using hi
  simp [Memory.read_writeRange, hlt]

/-- No draw is taken where every cell read was written (10_state.md R49). -/
theorem State.readBytes_of_writeRange {b : BufName} {m : Memory} {bs : List Byte} (d : ℕ)
    (h : s.buf b = m.writeRange 0 bs) : s.readBytes b 0 bs.length d = bs := by
  refine List.ext_getElem (by simp) fun i _ hi => ?_
  rw [State.getElem_readBytes]
  refine State.readCell_of_some _ ?_
  rw [h, Memory.read_writeRange_inside _ _ _ _ hi]

/-- The payload of the codes QUANTIZE writes. -/
def State.encodedPayload (s : State) : List Byte :=
  packBytes s.regs.bps s.regs.payloadLength s.quantizedCodes

@[simp] theorem State.length_encodedPayload (s : State) :
    s.encodedPayload.length = s.regs.payloadLength := length_packBytes _ _ _

/-- PACK after QUANTIZE packs the codes QUANTIZE wrote. -/
theorem State.packCodes_writeCodes (s : State) :
    (s.writeCodes s.quantizedCodes).packCodes = s.encodedPayload := by
  have hcodes : (s.writeCodes s.quantizedCodes).readBytes .code 0 s.regs.spf 0 =
      s.quantizedCodes := by
    rw [Regs.spf, ← s.length_quantizedCodes]
    exact State.readBytes_of_writeRange 0 (s.buf_writeCodes_self _)
  rw [State.packCodes, State.writeCodes_regs, hcodes, State.encodedPayload]

/-- ASSEMBLE after PACK and ENC_HDR copies the header and the payload they wrote. -/
theorem State.assembledBytes_writeHeader_writePayload (s : State) :
    s.writePayload.writeHeader.assembledBytes = s.regs.headerBytes ++ s.packCodes := by
  have hhdr := State.readBytes_of_writeRange 0 s.writePayload.buf_writeHeader_self
  have hpay := State.readBytes_of_writeRange 32
    ((s.writePayload.buf_writeHeader_ne (c := .pay) (by decide)).trans s.buf_writePayload_self)
  rw [Regs.length_headerBytes, State.writePayload_regs] at hhdr
  rw [State.length_packCodes] at hpay
  rw [State.assembledBytes, State.writeHeader_regs, State.writePayload_regs, Config.headerLength,
    hhdr, hpay]

/-! ### What the four parts leave -/

/-- QUANTIZE's, PACK's, ENC_HDR's and ASSEMBLE's writes, one after the other. -/
def State.encodeFrame (s : State) : State :=
  (s.writeCodes s.quantizedCodes).writePayload.writeHeader.writeFrame

/-- The bytes that the four parts write from the start of each buffer; SAMP gets none. -/
def State.encodedBytes (s : State) : BufName → List Byte
  | .hdr => s.regs.headerBytes
  | .samp => []
  | .code => s.quantizedCodes
  | .pay => s.encodedPayload
  | .frame => s.regs.headerBytes ++ s.encodedPayload

@[simp] theorem State.encodeFrame_regs (s : State) : s.encodeFrame.regs = s.regs := by
  simp [State.encodeFrame]

@[simp] theorem State.encodeFrame_samp (s : State) : s.encodeFrame.samp = s.samp := by
  change s.encodeFrame.buf .samp = s.buf .samp
  simp [State.encodeFrame]

theorem State.buf_encodeFrame (s : State) (b : BufName) :
    s.encodeFrame.buf b = (s.buf b).writeRange 0 (s.encodedBytes b) := by
  cases b with
  | hdr | code => simp [State.encodeFrame, State.encodedBytes]
  | samp => simp [State.encodeFrame, State.encodedBytes, Memory.writeRange, cellsFrom]
  | pay => simp [State.encodeFrame, State.encodedBytes, State.packCodes_writeCodes]
  | frame =>
    simp [State.encodeFrame, State.encodedBytes, State.assembledBytes_writeHeader_writePayload,
      State.packCodes_writeCodes]

/-! ### The two outcomes -/

theorem State.quantizeFrame_eq_quantizedCodes (h : s.FiniteSamples) :
    s.quantizeFrame = some s.quantizedCodes := by
  rw [State.quantizeFrame_of_finite h, State.map_value64_samples]
  rfl

theorem exec_quantize_eq_of_finite (hv : s.regs.cfgValid = true) (hfinite : s.FiniteSamples) :
    exec .quantize s = .next (s.writeCodes s.quantizedCodes).complete := by
  rw [exec, execQuantize, whenConfigured_of_valid hv, State.quantizeFrame_eq_quantizedCodes hfinite]

theorem exec_encFrame_of_finite (hv : s.regs.cfgValid = true) (hfinite : s.FiniteSamples) :
    exec .encFrame s = .next s.encodeFrame.complete := by
  rw [exec, execEncFrame, whenConfigured_of_valid hv, State.quantizeFrame_eq_quantizedCodes hfinite,
    State.encodeFrame]

/-- With a sample that is not finite both commands end by one failure (45_control.md R231). -/
theorem exec_eq_fail_of_not_finite (hi : i = .quantize ∨ i = .encFrame)
    (hv : s.regs.cfgValid = true) (hfinite : ¬ s.FiniteSamples) :
    exec i s = .next (s.drewSamples.fail .nonfiniteSample) := by
  have hframe : s.quantizeFrame = none := State.quantizeFrame_eq_none.mpr hfinite
  rcases hi with rfl | rfl
  · rw [exec, execQuantize, whenConfigured_of_valid hv, hframe]
  · rw [exec, execEncFrame, whenConfigured_of_valid hv, hframe]

/-! ### The chain -/

/-- Completion moves only DONE and the pending command, which PACK does not read. -/
theorem exec_pack_complete (hv : s.regs.cfgValid = true) :
    exec .pack s.complete = .next s.writePayload.complete :=
  exec_pack_of_valid (s := s.complete) hv

theorem exec_encHdr_complete (hv : s.regs.cfgValid = true) :
    exec .encHdr s.complete = .next s.writeHeader.complete := by
  rw [exec, execEncHdr, whenConfigured_of_valid (s := s.complete) hv]
  rfl

theorem exec_assemble_complete (hv : s.regs.cfgValid = true) :
    exec .assemble s.complete = .next s.writeFrame.complete :=
  exec_assemble_of_valid (s := s.complete) hv

/-- Settles O45: each part finds what the part before it wrote, completed. -/
theorem encFrameIsTheChain : Obligations.EncFrameIsTheChain := by
  intro s hv
  constructor
  · intro hfinite
    exact ⟨_, _, _, _, exec_quantize_eq_of_finite hv hfinite,
      exec_pack_complete (by simpa using hv), exec_encHdr_complete (by simpa using hv),
      exec_assemble_complete (by simpa using hv), exec_encFrame_of_finite hv hfinite, by simp⟩
  · intro hfinite
    obtain ⟨t, ht, hbuffers, -, -, hregs⟩ := exec_of_not_finite (.inl rfl) hv hfinite
    refine ⟨t, ht, ?_, hbuffers, hregs⟩
    rw [← ht, exec_eq_fail_of_not_finite (.inl rfl) hv hfinite,
      exec_eq_fail_of_not_finite (.inr rfl) hv hfinite]

/-! ### The datagram -/

/-- The cells of one buffer that ENC_FRAME wrote. -/
theorem State.map_read_encodeFrame (s : State) (b : BufName) :
    (List.range (s.encodedBytes b).length).map (s.encodeFrame.buf b).read =
      (s.encodedBytes b).map some := by
  rw [State.buf_encodeFrame, Memory.map_read_writeRange]

/-- Settles O46: FRAME_BYTES is 32 + P, and the bytes written to FRAME are those of HDR and PAY. -/
theorem encFrameLeavesWholeDatagram : Obligations.EncFrameLeavesWholeDatagram := by
  intro s hinv hv hfinite
  obtain ⟨hpayload, hframe, -, -⟩ := hinv.derived hv
  have hhdr : (List.range 32).map s.encodeFrame.hdr.read = (s.encodedBytes .hdr).map some := by
    rw [← s.map_read_encodeFrame, State.encodedBytes, Regs.length_headerBytes, State.buf]
  have hpay : (List.range s.regs.payloadBytes.toNat).map s.encodeFrame.pay.read =
      (s.encodedBytes .pay).map some := by
    rw [← s.map_read_encodeFrame, State.encodedBytes, State.length_encodedPayload,
      State.buf, Regs.payloadLength]
  have hdatagram : s.encodeFrame.complete.datagram = (s.encodedBytes .frame).map some := by
    rw [← s.map_read_encodeFrame, State.encodedBytes, List.length_append, Regs.length_headerBytes,
      State.length_encodedPayload, Regs.payloadLength, ← hframe, State.datagram, State.buf]
    simp
  refine ⟨_, exec_encFrame_of_finite hv hfinite, ?_, ?_, ?_, ?_, ?_, rfl, by simp⟩
  · simp [hdatagram, State.encodedBytes, Regs.payloadLength, hpayload]
  · rw [State.complete_hdr, State.complete_pay, hhdr, hpay, ← List.map_append, hdatagram]
    rfl
  · simp [hdatagram]
  · simp
  · simp [SameEnvironment, State.encodeFrame]

/-! ### Draws -/

@[simp] theorem State.buf_withDraws (s : State) (d : ℕ) (b : BufName) :
    ({ s with draws := d } : State).buf b = s.buf b := by cases b <;> rfl

/-- A written cell reads the same whatever the draws are (10_state.md R49). -/
theorem State.readCell_withDraws (d : ℕ) {b : BufName} {o : ℕ} (e : ℕ)
    (h : ((s.buf b).read o).isSome = true) :
    ({ s with draws := d } : State).readCell b o e = s.readCell b o e := by
  obtain ⟨v, hread⟩ := Option.isSome_iff_exists.mp h
  rw [State.readCell_of_some e hread, State.readCell_of_some e (by rwa [State.buf_withDraws])]

theorem State.SamplesWritten.sampleWord_withDraws (h : s.SamplesWritten) (d : ℕ) {i : ℕ}
    (hi : i < s.regs.spf) : ({ s with draws := d } : State).sampleWord i = s.sampleWord i := by
  have hbytes : ({ s with draws := d } : State).readBytes .samp (8 * i) 8 (8 * i) =
      s.readBytes .samp (8 * i) 8 (8 * i) :=
    List.map_congr_left fun j hj => by
      have hj : j < 8 := List.mem_range.mp hj
      exact State.readCell_withDraws d _ (h (8 * i + j) (by omega))
  rw [State.sampleWord, hbytes, State.sampleWord]

theorem State.SamplesWritten.finiteSamples_withDraws (h : s.SamplesWritten) (d : ℕ) :
    ({ s with draws := d } : State).FiniteSamples ↔ s.FiniteSamples :=
  forall₂_congr fun i hi => by rw [h.sampleWord_withDraws d hi]

theorem State.SamplesWritten.quantizedCodes_withDraws (h : s.SamplesWritten) (d : ℕ) :
    ({ s with draws := d } : State).quantizedCodes = s.quantizedCodes := by
  have hvalues : ({ s with draws := d } : State).sampleValues = s.sampleValues :=
    List.map_congr_left fun i hi => by rw [h.sampleWord_withDraws d (List.mem_range.mp hi)]
  rw [State.quantizedCodes, hvalues, State.quantizedCodes]

theorem State.SamplesWritten.encodedBytes_withDraws (h : s.SamplesWritten) (d : ℕ) (b : BufName) :
    ({ s with draws := d } : State).encodedBytes b = s.encodedBytes b := by
  cases b <;> simp [State.encodedBytes, State.encodedPayload, h.quantizedCodes_withDraws d]

/-- Settles O47: the bytes written depend on registers and samples alone, and a failure writes
none. -/
theorem encFrameHasNoDraws : Obligations.EncFrameHasNoDraws := by
  intro s t t' d hv hwritten ht ht'
  by_cases hfinite : s.FiniteSamples
  · have hfinite' := (hwritten.finiteSamples_withDraws d).mpr hfinite
    cases ht.symm.trans (exec_encFrame_of_finite hv hfinite)
    cases ht'.symm.trans (exec_encFrame_of_finite hv hfinite')
    refine ⟨by simp, fun b => ?_⟩
    simp [State.buf_encodeFrame, hwritten.encodedBytes_withDraws d b]
  · have hfinite' := mt (hwritten.finiteSamples_withDraws d).mp hfinite
    cases ht.symm.trans (exec_eq_fail_of_not_finite (.inr rfl) hv hfinite)
    cases ht'.symm.trans (exec_eq_fail_of_not_finite (.inr rfl) hv hfinite')
    exact ⟨rfl, fun b => by simp⟩

end Sys2Proof.Machine
end

section
/-! Exceptions (60_exceptions.md): how each command ends, what a failure changes and which code it
records, and that no step stops the machine. -/

namespace Sys2Proof.Machine

variable {s t u : State} {i : Instr} {e : CmdError}

/-! ### Nothing stops the machine -/

theorem whenConfigured_total {body : State → Result} (h : ∃ t, body s = .next t) :
    ∃ t, whenConfigured s body = .next t := by
  cases hv : s.regs.cfgValid with
  | true => rwa [whenConfigured_of_valid hv]
  | false => exact ⟨_, whenConfigured_of_invalid hv⟩

/-- Every command has a next state (60_exceptions.md R271). -/
theorem exec_total (i : Instr) (s : State) : ∃ t, exec i s = .next t := by
  cases i with
  | nop | softReset | illegal => exact ⟨_, rfl⟩
  | cfgCommit =>
    by_cases ha : s.regs.Accepted
    · exact ⟨_, exec_cfgCommit_of_accepted ha⟩
    · exact ⟨_, exec_cfgCommit_of_not_accepted ha⟩
  | encHdr =>
    rw [exec, execEncHdr]
    exact whenConfigured_total ⟨_, rfl⟩
  | pack =>
    rw [exec, execPack]
    exact whenConfigured_total ⟨_, rfl⟩
  | assemble =>
    rw [exec, execAssemble]
    exact whenConfigured_total ⟨_, rfl⟩
  | quantize =>
    rw [exec, execQuantize]
    refine whenConfigured_total ?_
    cases s.quantizeFrame with
    | none | some => exact ⟨_, rfl⟩
  | encFrame =>
    rw [exec, execEncFrame]
    refine whenConfigured_total ?_
    cases s.quantizeFrame with
    | none | some => exact ⟨_, rfl⟩

theorem State.engineTurn_total (s : State) : ∃ t, s.engineTurn = .next t := by
  cases hp : s.pending with
  | some w => simpa only [State.engineTurn_of_pending hp] using exec_total (decode w) s
  | none => exact ⟨s, by simp [State.engineTurn, hp]⟩

/-- Settles O7: only the engine's turn runs a command, and every command has a next state. -/
theorem noStepStopsTheMachine : Obligations.NoStepStopsTheMachine := by
  intro s
  unfold step
  split
  · exact State.engineTurn_total _
  · exact ⟨_, rfl⟩
  · exact ⟨_, rfl⟩
  · split
    · exact s.engineTurn_total
    · exact ⟨_, rfl⟩

/-! ### How a command ends -/

/-- In state `s` command `i` raises `e`, for its cause in 60_exceptions.md R251, once its writes
before the failure have led to `u`: the commit's defined failure writes, the draws of the samples
read, or none. -/
inductive State.Raises (s : State) : Instr → CmdError → State → Prop
  | illegal (w : Word) : s.Raises (.illegal w) .illegalCmd s
  | rejected (h : ¬ s.regs.Accepted) :
      s.Raises .cfgCommit (primaryError s.regs.checkMask) (s.setRegs s.regs.rejectConfig)
  | notConfigured {i : Instr} (hi : i ∈ encodeCommands) (hv : s.regs.cfgValid = false) :
      s.Raises i .notConfigured s
  | nonfinite {i : Instr} (hi : i = .quantize ∨ i = .encFrame) (hv : s.regs.cfgValid = true)
      (hf : ¬ s.FiniteSamples) : s.Raises i .nonfiniteSample s.drewSamples

/-- The error record, STATUS.ERR, STATUS.ERR_MULTI and ERR_CODE, is the same. -/
def Regs.SameErrors (r q : Regs) : Prop :=
  q.err = r.err ∧ q.errMulti = r.errMulti ∧ q.errCode = r.errCode

theorem State.Raises.commandFails (h : s.Raises i e u) : s.CommandFails i := by
  cases h with
  | illegal => trivial
  | rejected h => exact h
  | notConfigured hi hv =>
    simp only [List.mem_cons, List.not_mem_nil, or_false] at hi
    rcases hi with rfl | rfl | rfl | rfl | rfl <;> simp [State.CommandFails, hv]
  | nonfinite hi hv hf => rcases hi with rfl | rfl <;> exact .inr hf

/-- What precedes a failure writes no buffer cell (60_exceptions.md R259). -/
theorem State.Raises.buf_eq (h : s.Raises i e u) (b : BufName) : u.buf b = s.buf b := by
  cases h <;> simp

/-- What precedes a failure changes the registers only in CFG_COMMIT (60_exceptions.md R259). -/
theorem State.Raises.regs_eq (h : s.Raises i e u) :
    u.regs = if i = .cfgCommit then s.regs.rejectConfig else s.regs := by
  cases h with
  | illegal | rejected => rfl
  | notConfigured hi => rw [if_neg (by rintro rfl; simp at hi)]
  | nonfinite hi => rw [if_neg (by rintro rfl; simp at hi), State.drewSamples_regs]

/-- Every command makes its writes, which leave the host's part alone and, SOFT_RESET apart, the
error record, and then completes, or raises for a cause of 60_exceptions.md R251. -/
theorem exec_ends (h : exec i s = .next t) :
    ∃ u, SameEnvironment s u ∧ u.regs.nMaxReg = s.regs.nMaxReg ∧
      (s.regs.SameErrors u.regs ∨ i = .softReset ∧ u.regs = Regs.reset s.regs.nMaxReg) ∧
      ((¬ s.CommandFails i ∧ t = u.complete) ∨ ∃ e, s.Raises i e u ∧ t = u.fail e) := by
  rcases exec_cases h with
    ⟨rfl, rfl⟩ | ⟨rfl, rfl⟩ | ⟨w, rfl, rfl⟩ | ⟨rfl, hm, rfl⟩ | ⟨rfl, hm, rfl⟩ | ⟨hi, hv, rfl⟩ |
      ⟨hi, hv, hq, rfl⟩ | ⟨rfl, hv, rfl⟩ | ⟨rfl, hv, rfl⟩ | ⟨rfl, hv, rfl⟩ |
      ⟨codes, rfl, hv, hq, rfl⟩ | ⟨codes, rfl, hv, hq, rfl⟩
  · exact ⟨s, ⟨rfl, rfl, rfl⟩, rfl, .inl ⟨rfl, rfl, rfl⟩, .inl ⟨id, rfl⟩⟩
  · exact ⟨s.setRegs (.reset _), ⟨rfl, rfl, rfl⟩, rfl, .inr ⟨rfl, rfl⟩, .inl ⟨id, rfl⟩⟩
  · exact ⟨s, ⟨rfl, rfl, rfl⟩, rfl, .inl ⟨rfl, rfl, rfl⟩, .inr ⟨_, .illegal w, rfl⟩⟩
  · have ha : s.regs.Accepted := Regs.checkMask_eq_zero_iff_accepted.mp hm
    exact ⟨s.setRegs s.regs.acceptConfig, ⟨rfl, rfl, rfl⟩, rfl, .inl ⟨rfl, rfl, rfl⟩,
      .inl ⟨not_not_intro ha, rfl⟩⟩
  · have ha : ¬ s.regs.Accepted := mt Regs.checkMask_eq_zero_iff_accepted.mpr hm
    exact ⟨s.setRegs s.regs.rejectConfig, ⟨rfl, rfl, rfl⟩, rfl, .inl ⟨rfl, rfl, rfl⟩,
      .inr ⟨_, .rejected ha, rfl⟩⟩
  · exact ⟨s, ⟨rfl, rfl, rfl⟩, rfl, .inl ⟨rfl, rfl, rfl⟩, .inr ⟨_, .notConfigured hi hv, rfl⟩⟩
  · have hf : ¬ s.FiniteSamples := State.quantizeFrame_eq_none.mp hq
    exact ⟨s.drewSamples, ⟨rfl, rfl, rfl⟩, rfl, .inl ⟨rfl, rfl, rfl⟩,
      .inr ⟨_, .nonfinite hi hv hf, rfl⟩⟩
  iterate 3
    · exact ⟨_, by simp [SameEnvironment], by simp, .inl (by simp [Regs.SameErrors]),
        .inl ⟨by simp [State.CommandFails, hv], rfl⟩⟩
  iterate 2
    · have hf : s.FiniteSamples := not_not.mp (mt State.quantizeFrame_eq_none.mpr (by simp [hq]))
      exact ⟨_, by simp [SameEnvironment], by simp, .inl (by simp [Regs.SameErrors]),
        .inl ⟨by simp [State.CommandFails, hv, hf], rfl⟩⟩

/-- A command that fails raises an error (60_exceptions.md R256). -/
theorem exec_raises_of_commandFails (h : exec i s = .next t) (hf : s.CommandFails i) :
    ∃ u e, SameEnvironment s u ∧ s.Raises i e u ∧ t = u.fail e := by
  obtain ⟨u, henv, -, -, ⟨hno, -⟩ | ⟨e, hraise, ht⟩⟩ := exec_ends h
  · exact absurd hf hno
  · exact ⟨u, e, henv, hraise, ht⟩

/-- A command that records a first error raises it, and its code is the one recorded
(60_exceptions.md R256, R260). -/
theorem exec_raises_of_firstError (h : exec i s = .next t) (hs : s.regs.err = false)
    (ht : t.regs.err = true) : ∃ u e, s.Raises i e u ∧ t.regs.errCode = e.code := by
  obtain ⟨u, -, -, herr, ⟨-, rfl⟩ | ⟨e, hraise, rfl⟩⟩ := exec_ends h
  · have hu : u.regs.err = false := by
      rcases herr with ⟨herr, -, -⟩ | ⟨-, hreset⟩
      · exact herr.trans hs
      · rw [hreset, Regs.reset]
    exact absurd (hu.symm.trans ht) (by decide)
  · have hu : u.regs.err = false := by
      rw [hraise.regs_eq]
      split
      · exact hs
      · exact hs
    exact ⟨u, e, hraise, by simp [Regs.recordError, hu]⟩

/-- Settles O6: completion and failure both take the command off `pending` and set DONE. -/
theorem everyCommandCompletes : Obligations.EveryCommandCompletes := by
  intro i s
  obtain ⟨t, ht⟩ := exec_total i s
  obtain ⟨u, henv, hn, -, ⟨-, rfl⟩ | ⟨e, -, rfl⟩⟩ := exec_ends ht
  · exact ⟨_, ht, rfl, rfl, hn, henv⟩
  · exact ⟨_, ht, rfl, rfl, by simpa using hn, henv⟩

/-! ### What is recorded -/

/-- A failure after the first one only sets ERR_MULTI (60_exceptions.md R257). -/
theorem State.fail_of_err (e : CmdError) (h : s.regs.err = true) :
    (s.fail e).regs = { s.regs with errMulti := true, done := true } := by
  simp [Regs.recordError, h]

/-- Settles O21: the writes before the end keep the error record, completion does too, and a failure
finds ERR set. -/
theorem firstErrorIsKept : Obligations.FirstErrorIsKept := by
  intro i s t hi h hs
  obtain ⟨u, -, -, ⟨herr, hmulti, hcode⟩ | ⟨hreset, -⟩, hend⟩ := exec_ends h
  · rcases hend with ⟨-, rfl⟩ | ⟨e, -, rfl⟩
    · exact ⟨herr.trans hs, hcode, hmulti.trans⟩
    · rw [State.fail_of_err e (herr.trans hs)]
      exact ⟨herr.trans hs, hcode, fun _ => rfl⟩
  · exact absurd hreset hi

/-- Settles O22: a first error is raised, and raising follows no write but the commit's own. -/
theorem failuresArePrecise : Obligations.FailuresArePrecise := by
  intro i s t h
  refine ⟨fun hs ht => ?_, fun hf => ?_⟩
  · obtain ⟨u, e, hraise, -⟩ := exec_raises_of_firstError h hs ht
    exact hraise.commandFails
  · obtain ⟨u, e, henv, hraise, rfl⟩ := exec_raises_of_commandFails h hf
    have hregs : (u.fail e).regs = u.regs.failedWith e.code := u.regs.recordError_done e
    refine ⟨fun b o => by rw [State.buf_fail, hraise.buf_eq], henv, e, fun hi => ?_, fun hi => ?_⟩
    · rw [hregs, hraise.regs_eq, if_neg hi]
    · rw [hregs, hraise.regs_eq, if_pos hi]
      rfl

theorem code_primaryError_bounds (mask : BitVec 9) :
    1 ≤ (primaryError mask).code.toNat ∧ (primaryError mask).code.toNat ≤ 9 := by
  unfold primaryError
  split_ifs <;> decide

/-- Settles O23: the code recorded is that of the error raised, and the commands that raise each are
listed with it. -/
theorem eachCommandReportsItsCodes : Obligations.EachCommandReportsItsCodes := by
  intro i s t h hs ht
  obtain ⟨u, e, hraise, hcode⟩ := exec_raises_of_firstError h hs ht
  cases hraise with
  | illegal => exact hcode
  | rejected => exact hcode ▸ code_primaryError_bounds _
  | notConfigured hi hv =>
    simp only [List.mem_cons, List.not_mem_nil, or_false] at hi
    rcases hi with rfl | rfl | rfl | rfl | rfl <;> simpa [hv, CmdError.code] using hcode
  | nonfinite hi hv => rcases hi with rfl | rfl <;> simpa [hv, CmdError.code] using hcode

end Sys2Proof.Machine
end

section
/-! Reset: the state after it meets the invariant, and what asserting `rst` leaves
(70_reset_and_hazards.md R280, R281). -/

namespace Sys2Proof.Machine

variable {s : State}

@[simp] theorem State.buf_resetWith (n : Word) (b : BufName) : (State.resetWith n).buf b = [] := by
  cases b <;> rfl

/-- The buffers are empty and nothing is pending, so N_MAX is all that reset leaves to check. -/
theorem State.inv_resetWith {n : Word} (hn : Config.legalNMax n.toNat = true) :
    (State.resetWith n).Inv := by
  refine State.inv_iff.mpr ⟨hn, fun b => ?_, .reset n, nofun⟩
  rw [State.buf_resetWith]
  exact ⟨.nil, nofun⟩

/-- Settles O9: the default N_MAX is one of the legal ones. -/
theorem resetMeetsInvariant : Obligations.ResetMeetsInvariant :=
  ⟨State.inv_resetWith (by decide), fun _ hn => State.inv_resetWith hn⟩

/-- The reset input acts when its turn is listed, whatever is pending
(70_reset_and_hazards.md R281). -/
theorem step_of_rst {ts : List Turn} (h : s.turns = .rst :: ts) :
    step s = .next ({ s with turns := ts } : State).hardReset := by
  rw [step, h]

/-- With interrupts disabled the line is low (10_state.md R51). -/
theorem State.irq_eq_false_of_irqEn (h : s.regs.irqEn = 0) : s.irq = false := by
  simp [State.irq, h]

/-- With every flag clear STATUS reads 0 (10_state.md R24). -/
theorem State.statusWord_eq_zero (hv : s.regs.cfgValid = false) (hb : s.busy = false)
    (hd : s.regs.done = false) (he : s.regs.err = false) (hm : s.regs.errMulti = false) :
    s.statusWord = 0 := by
  refine BitVec.eq_of_getLsbD_eq fun k _ => ?_
  simp [State.getLsbD_statusWord, hv, hb, hd, he, hm]

/-- Settles O10: the step is a hard reset, whose registers are the reset values and whose buffers
are empty. -/
theorem hardResetAtAnyTime : Obligations.HardResetAtAnyTime := by
  intro s ts h
  refine ⟨_, step_of_rst h, rfl, rfl, fun b o => ?_, State.irq_eq_false_of_irqEn rfl,
    State.statusWord_eq_zero rfl rfl rfl rfl rfl⟩
  rw [State.buf_hardReset, Memory.read_nil]

end Sys2Proof.Machine
end
